-- ==== Sys2Proof/Word.lean ====
section
/-! DEFINITION. The words of SSDSP: a byte of the command or output stream, a command word, the 32-bit operand and
register word, and the enumerations whose values the spec numbers. -/

namespace Sys2Proof

/-- One byte of the command stream or of the output stream (20_memory.md R70). -/
abbrev Byte := BitVec 8

/-- One command word (30_encoding.md R101). -/
abbrev CmdWord := BitVec 64

/-- A 32-bit operand, register or read-port word. -/
abbrev Word := BitVec 32

/-- The four generation strategies of a voice (10_state.md R23, register VARIANT of R40). -/
inductive Variant where
  | piano | square | triangle | sampled
  deriving DecidableEq, Repr

/-- The number the VARIANT register gives a variant (R40). -/
def Variant.number : Variant → BitVec 2
  | .piano => 0
  | .square => 1
  | .triangle => 2
  | .sampled => 3

/-- The variant a VARIANT register value names; every two-bit value names one (R40). -/
def Variant.ofNumber (n : BitVec 2) : Variant :=
  if n = 0 then .piano else if n = 1 then .square else if n = 2 then .triangle else .sampled

/-- Who owns the effect units (00_scope.md R4, 10_state.md R57). -/
inductive Topology where
  | shared | priv
  deriving DecidableEq, Repr

end Sys2Proof
end

