-- ==== Sys2Proof/Config.lean ====
section
/-! DEFINITION. What is fixed when the block is built: the numeric configuration NUM (00_scope.md R8), the record of all
parameters (R4 to R7) and the one free value of the spec (wave memory nothing has written, U3). Every operation of the
machine takes the record as an argument; the values the running machine uses are in Machine/Defaults.lean. -/

namespace Sys2Proof

/-- NUM (00_scope.md R8) over a field of numbers `α`: the set of representable values, the rounding applied after every primitive
operation, and the elementary functions. `α` is the reals for the spec's default (Machine/RealNum.lean) and for any format of real
values; it is the rationals for the running machine (log 1). An operation goes through the functions of Machine/Arith.lean, which
apply `rnd`. -/
structure Num (α : Type) where
  /-- `NUM.V`, the set of representable values; the default is all of `α`. -/
  V : α → Prop
  /-- `NUM.rnd`; the default is the identity. -/
  rnd : α → α
  /-- `NUM.rnd : real -> NUM.V`. -/
  rnd_mem : ∀ x, V (rnd x)
  /-- The circle constant `pi`. -/
  piConst : α
  /-- `sin2pi(x) = sin(2*pi*x)`. -/
  sin2piFn : α → α
  /-- `cos2pi(x) = cos(2*pi*x)`. -/
  cos2piFn : α → α
  /-- `exp2(x) = 2^x`. -/
  exp2Fn : α → α
  /-- `exp(x) = e^x`. -/
  expFn : α → α
  /-- `ln(x)`. -/
  lnFn : α → α
  /-- `sqrt(x)`. -/
  sqrtFn : α → α

section
variable {α : Type} [Field α] [LinearOrder α]

/-- The named properties of the elementary functions (00_scope.md R8, 93_implementation_defined.md U7), as R8 lists them. -/
structure LawfulNum (N : Num α) : Prop where
  exp2_zero : N.exp2Fn 0 = 1
  exp2_succ : ∀ x, N.exp2Fn (x + 1) = 2 * N.exp2Fn x
  sin2pi_zero : N.sin2piFn 0 = 0
  sin2pi_le : ∀ x, |N.sin2piFn x| ≤ 1
  cos2pi_le : ∀ x, |N.cos2piFn x| ≤ 1
  exp_pos : ∀ x, x < 0 → 0 < N.expFn x
  exp_lt_one : ∀ x, x < 0 → N.expFn x < 1
  sqrt_nonneg : ∀ x, 0 ≤ N.sqrtFn x

/-- Two facts R8 does not name, of the circle constant and of `exp2`, that the frequency law (40_voice.md R133) and the filter
coefficients (41_filters.md R181, R185) rest on (DEDUCED, log 21). -/
structure PositiveNum (N : Num α) : Prop where
  pi_pos : 0 < N.piConst
  exp2_pos : ∀ x, 0 < N.exp2Fn x

/-- The rounding keeps the sign of a value, 0 included: the assumption under which a rounding NUM leaves no divisor of a rule at 0
(60_exceptions.md R341; DESIGN CHOICE, log 22). An exact NUM meets it. -/
structure Num.KeepsSign (N : Num α) : Prop where
  zero : N.rnd 0 = 0
  pos : ∀ x, 0 < x → 0 < N.rnd x
  neg : ∀ x, x < 0 → N.rnd x < 0

/-- NUM is exact: rounding is the identity on the representable values (the default of R8). -/
def ExactNum (N : Num α) : Prop := ∀ x, N.rnd x = x

end

/-- One chorus tap: `CH_DELAY[k]`, `CH_PAN[k]`, `CH_GAIN[k]`, `CH_LFO_PHASE[k]` (00_scope.md R6). -/
structure Tap (α : Type) where
  delay : Nat
  pan : α
  gain : α
  lfoPhase : α
  deriving DecidableEq, Repr

/-- The record of all implementation parameters (00_scope.md R4 to R7). `p` is a key, `v` a velocity, `c`, `r`, `d`,
`s`, `t` register values, `R` a reverberance percentage. -/
structure Params (α : Type) where
  /-- The numeric configuration `NUM` (R8). -/
  num : Num α
  /-- `FS`, frames per second (R4). -/
  fs : Nat
  /-- `NCHAN` (R4). -/
  nchan : Nat
  /-- `MAX_POLYPHONICS` (R4). -/
  maxPoly : Nat
  /-- `TOPOLOGY` (R4). -/
  topology : Topology
  /-- `HAS_ECHO` (R4). -/
  hasEcho : Bool
  /-- `WMEM_FRAMES` (R4). -/
  wmemFrames : Nat
  /-- `NDESC` (R4). -/
  ndesc : Nat
  /-- `PEAK_PIANO` (R5). -/
  peakPiano : α
  /-- `PEAK_SQUARE` (R5). -/
  peakSquare : α
  /-- `PEAK_TRIANGLE` (R5). -/
  peakTriangle : α
  /-- `(PIANO_W[k], PIANO_PH[k])` for `k = 0..10` (R5). -/
  pianoPartials : List (α × α)
  /-- `PIANO_NORM` (R5). -/
  pianoNorm : α
  /-- `PIANO_ENV`, breakpoints `(x_j, g_j)` (R5). -/
  pianoEnv : List (α × α)
  /-- `PIANO_DUR(p)` (R5). -/
  pianoDur : Nat → Nat
  /-- `REL_LEN(variant, v)` (R5). -/
  relLen : Variant → Nat → Nat
  /-- `ATTACK_LEN` (R5). -/
  attackLen : Nat
  /-- `SQ_SLOPE` (R5). -/
  sqSlope : α
  /-- `TRI_SKEW` (R5). -/
  triSkew : α
  /-- `CUTOFF_HZ(c)` (R5). -/
  cutoffHz : Nat → α
  /-- `RES_BW_HZ(r)` (R5). -/
  resBwHz : Nat → α
  /-- `BW_MIN` (R5). -/
  bwMin : α
  /-- `VIB_DEPTH(d)` (R5). -/
  vibDepth : Nat → α
  /-- `VIB_RATE_HZ(s)` (R5). -/
  vibRateHz : Nat → α
  /-- `PORTA_SAMPLES(t)` (R5). -/
  portaSamples : Nat → Nat
  /-- The `CH_NTAP` chorus taps (R6). -/
  chTaps : List (Tap α)
  /-- `CH_LFO_PERIOD` (R6). -/
  chLfoPeriod : Nat
  /-- `CH_LFO_DEPTH` (R6). -/
  chLfoDepth : α
  /-- `CHORUS_WET_ONLY` (R6). -/
  chorusWetOnly : Bool
  /-- `ECHO_BASE` (R6). -/
  echoBase : Nat
  /-- `ECHO_GAIN[0..2]` (R6). -/
  echoGain : List α
  /-- `ECHO_WET_ONLY` (R6). -/
  echoWetOnly : Bool
  /-- `COMB_LEN[0..7]` of the left bank (R6). -/
  combLen : List Nat
  /-- `AP_LEN[0..3]` of the left bank (R6). -/
  apLen : List Nat
  /-- `STEREO_SPREAD` (R6). -/
  stereoSpread : Nat
  /-- `AP_FEEDBACK` (R6). -/
  apFeedback : α
  /-- `REV_GAIN` (R6). -/
  revGain : α
  /-- `REV_WET` (R6). -/
  revWet : α
  /-- `REV_PREDELAY` (R6). -/
  revPredelay : Nat
  /-- `REV_FEEDBACK(R)` (R6). -/
  revFeedback : α → α
  /-- `REV_DAMP(R)` (R6). -/
  revDamp : α → α
  /-- `REVERB_WET_ONLY` (R6). -/
  reverbWetOnly : Bool
  /-- `PAN_L(p)` (R7). -/
  panL : Nat → α
  /-- `PAN_R(p)` (R7). -/
  panR : Nat → α

section
variable {α : Type}

/-- The number of effect owners: the block when SHARED, each channel when PRIVATE (10_state.md R57). -/
def Params.owners (P : Params α) : Nat :=
  match P.topology with
  | .shared => 1
  | .priv => P.nchan

/-- `H = max(CH_DELAY[0..CH_NTAP-1])`, the length of the chorus history (10_state.md R59). -/
def Params.chorusLen (P : Params α) : Nat := (P.chTaps.map (·.delay)).foldl max 0

/-- `H = 3 * ECHO_BASE`, the length of the echo history (10_state.md R60). -/
def Params.echoLen (P : Params α) : Nat := 3 * P.echoBase

/-- Comb lengths of the right bank: `COMB_LEN[j] + STEREO_SPREAD` (10_state.md R61). -/
def Params.combLenR (P : Params α) : List Nat := P.combLen.map (· + P.stereoSpread)

/-- All-pass lengths of the right bank: `AP_LEN[k] + STEREO_SPREAD` (10_state.md R61). -/
def Params.apLenR (P : Params α) : List Nat := P.apLen.map (· + P.stereoSpread)

end

/-- FREE VALUE (U3, 10_state.md R54, 20_memory.md R72): what wave frame `a` holds while no `WAVDAT` has written it since reset,
left sample in the low half and right sample in the high half. It is fixed from reset until the first write and unknown
(DESIGN CHOICE, log 6). -/
opaque Config.unwrittenFrame : Nat → BitVec 32

end Sys2Proof
end

