-- ==== Sys2Proof/Machine/Numeric.lean ====
section
/-! DEFINITION. The elementary functions of the running machine's NUM (00_scope.md R8, 93_implementation_defined.md U7). The true
values are real numbers; each function here answers a rational close to the true value (DESIGN CHOICE, log 1) and keeps the named
properties of R8 exactly: they are forced by the shape of the definition, not by the closeness. -/

namespace Sys2Proof.Numeric

/-- The grid the results stand on: 2^64 points a unit. -/
def gridScale : Nat := 2 ^ 64

/-- The nearest point of the grid. -/
def toGrid (x : Rat) : Rat := ((x * (gridScale : Rat) + 1 / 2).floor : Rat) / (gridScale : Rat)

/-- The nearest point of the grid not below. -/
def toGridUp (x : Rat) : Rat := -(((-x * (gridScale : Rat)).floor : Rat) / (gridScale : Rat))

/-- 2 to an integer power. -/
def pow2 (n : Int) : Rat :=
  if 0 ≤ n then ((2 ^ n.toNat : Nat) : Rat) else 1 / ((2 ^ (-n).toNat : Nat) : Rat)

/-- `pi`, to 80 binary places. -/
def piApprox : Rat := 3797952473636338580787993 / 1208925819614629174706176

/-- `ln 2`, to 80 binary places. -/
def ln2Approx : Rat := 837963523372001241319907 / 1208925819614629174706176

/-- The power series `1 + y/1 * (1 + y/2 * (1 + ...))` of `exp`, `n` levels starting at divisor `k`. -/
def expSeries (y : Rat) : Nat → Nat → Rat
  | _, 0 => 1
  | k, n + 1 => 1 + y / (k : Rat) * expSeries y (k + 1) n

/-- `e^y` for `|y| < 1`. -/
def expSmall (y : Rat) : Rat := expSeries y 1 24

/-- `1 - y^2/(k(k+1)) * (1 - y^2/((k+2)(k+3)) * ...)`: `sin y / y` from `k = 2`, `cos y` from `k = 1`. -/
def trigSeries (y2 : Rat) : Nat → Nat → Rat
  | _, 0 => 1
  | k, n + 1 => 1 - y2 / ((k * (k + 1) : Nat) : Rat) * trigSeries y2 (k + 2) n

/-- `sin(2 pi t)` for `t` in [0, 1/4]: the sine series up to an eighth of a cycle, the cosine series beyond. -/
def quarterSine (t : Rat) : Rat :=
  if t ≤ 1 / 8 then
    let y := 2 * piApprox * t
    y * trigSeries (y * y) 2 12
  else
    let y := 2 * piApprox * (1 / 4 - t)
    trigSeries (y * y) 1 12

/-- A value moved into [-1, 1]. -/
def unitClamp (x : Rat) : Rat := if x < -1 then -1 else if 1 < x then 1 else x

/-- `sin2pi(x) = sin(2*pi*x)`: the phase is reduced exactly to a quarter of a cycle. -/
def sin2pi (x : Rat) : Rat :=
  let u := x - (x.floor : Rat)
  unitClamp <|
    if u ≤ 1 / 4 then toGrid (quarterSine u)
    else if u ≤ 1 / 2 then toGrid (quarterSine (1 / 2 - u))
    else if u ≤ 3 / 4 then -toGrid (quarterSine (u - 1 / 2))
    else -toGrid (quarterSine (1 - u))

/-- `cos2pi(x) = cos(2*pi*x)`, a quarter of a cycle ahead of the sine. -/
def cos2pi (x : Rat) : Rat := sin2pi (x + 1 / 4)

/-- `2^t` for `t` in [0, 1), never below 1. -/
def mantissa2 (t : Rat) : Rat := max 1 (toGrid (expSmall (t * ln2Approx)))

/-- `exp2(x) = 2^x`: the integer part of the exponent is exact. -/
def exp2 (x : Rat) : Rat := pow2 x.floor * mantissa2 (x - (x.floor : Rat))

/-- `exp(x) = e^x` through `2^(x / ln 2)`, rounded up on the grid, and kept below `1 / (1 - x)` for a negative `x`, which the
true value is. -/
def exp (x : Rat) : Rat :=
  let n := (x / ln2Approx).floor
  let e := pow2 n * max 1 (toGridUp (expSmall (x - (n : Rat) * ln2Approx)))
  if x < 0 then min e (1 / (1 - x)) else e

/-- `z + z^3/3 + z^5/5 + ...`, with `z2 = z * z` and the divisors from `k` on. -/
def atanhSeries (z z2 : Rat) : Nat → Nat → Rat
  | _, 0 => 0
  | k, n + 1 => z / (k : Rat) + atanhSeries (z * z2) z2 (k + 2) n

/-- The exponent `n` that leaves `x / 2^n` near 1, from the bit lengths of numerator and denominator. -/
def binaryExponent (x : Rat) : Int := (x.num.natAbs.log2 : Int) - (x.den.log2 : Int)

/-- `ln(x)` for a positive `x`: `n * ln 2 + 2 atanh((m - 1)/(m + 1))` with `x = m * 2^n`; 0 where `x` is not positive, a
case no rule reaches. -/
def ln (x : Rat) : Rat :=
  if x ≤ 0 then 0
  else
    let n := binaryExponent x
    let m := x / pow2 n
    let z := (m - 1) / (m + 1)
    (n : Rat) * ln2Approx + 2 * atanhSeries z (z * z) 1 24

/-- The bits of the integer square root of `m` from bit `k - 1` down, `r` being the bits found so far. -/
def isqrtBits (m : Nat) : Nat → Nat → Nat
  | 0, r => r
  | k + 1, r =>
    let t := r + 2 ^ k
    isqrtBits m k (if t * t ≤ m then t else r)

/-- The integer square root. -/
def isqrt (m : Nat) : Nat := isqrtBits m (m.log2 / 2 + 1) 0

/-- `sqrt(x)`, rounded down on the grid; 0 where `x` is negative, a case no rule reaches (R186). -/
def sqrt (x : Rat) : Rat :=
  (isqrt (x * (gridScale * gridScale : Nat)).floor.toNat : Rat) / (gridScale : Rat)

/-- The running machine's NUM: rational values, no rounding of the four operations, these elementary functions
(DESIGN CHOICE, log 1). -/
def exactNum : Num Rat where
  V := fun _ => True
  rnd := fun x => x
  rnd_mem := fun _ => trivial
  piConst := piApprox
  sin2piFn := sin2pi
  cos2piFn := cos2pi
  exp2Fn := exp2
  expFn := exp
  lnFn := ln
  sqrtFn := sqrt

end Sys2Proof.Numeric
end

