-- ==== Sys2Proof/Machine/Defaults.lean ====
section
/-! DEFINITION. The default parameter record of 00_scope.md R4 to R7, and the record the running machine is built with
(DESIGN CHOICE, log 2). -/

namespace Sys2Proof

variable {α : Type} [Field α] [LinearOrder α] [FloorRing α]

/-- `PIANO_W[k] = 1/(k+1)`, `PIANO_PH[k] = 0` (R5). -/
def Config.pianoPartials (N : Num α) : List (α × α) := (List.range 11).map fun k => (N.rnd (1 / ((k + 1 : Nat) : α)), 0)

/-- `PIANO_ENV` (R5). -/
def Config.pianoEnv : List (α × α) := [(0, 1), (1 / 8, 1 / 2), (1 / 4, 1 / 4), (1 / 2, 1 / 8), (1, 0)]

/-- `PIANO_DUR(p) = floor(44100 * (143 - p) / 16)` (R5). -/
def Config.pianoDur (p : Nat) : Nat := 44100 * (143 - p) / 16

/-- `REL_LEN(variant, v)` (R5). -/
def Config.relLen (variant : Variant) (v : Nat) : Nat :=
  match variant with
  | .piano => 4410
  | .square => 64 * (128 - v)
  | .triangle => 64 * (128 - v)
  | .sampled => 8820

/-- `CH_LFO_PHASE[k] = k/5` (R6). -/
def Config.chLfoPhase (N : Num α) (k : Nat) : α := N.rnd ((k : α) / 5)

/-- The five chorus taps (R6). -/
def Config.chTaps (N : Num α) : List (Tap α) :=
  [⟨441, 1 / 2, 1 / 5, chLfoPhase N 0⟩, ⟨661, 1 / 4, 1 / 5, chLfoPhase N 1⟩, ⟨882, 3 / 4, 1 / 5, chLfoPhase N 2⟩,
    ⟨1102, 1 / 8, 1 / 5, chLfoPhase N 3⟩, ⟨1323, 7 / 8, 1 / 5, chLfoPhase N 4⟩]

/-- `REV_FEEDBACK(R) = 1 - exp((R - b) / (a * b))` with `a = -1 / ln(1 - 0.3)` and `b = 100 / (ln(1 - 0.98) * a + 1)`
(R6, 43_reverb.md R238). The arguments 0.7 and 0.02 are R6's numbers, not R238's rounded subtractions `1 - 0.3` and `1 - 0.98`
(DESIGN CHOICE, log 23). -/
def Config.revFeedback (N : Num α) (R : α) : α :=
  let a := N.rnd (-1 / N.rnd (N.lnFn (7 / 10)))
  let b := N.rnd (100 / N.rnd (N.rnd (N.rnd (N.lnFn (2 / 100)) * a) + 1))
  N.rnd (1 - N.rnd (N.expFn (N.rnd (N.rnd (R - b) / N.rnd (a * b)))))

/-- `REV_DAMP(R) = 0.2 + 0.3 * R / 100` (R6, R238). -/
def Config.revDamp (N : Num α) (R : α) : α := N.rnd (2 / 10 + N.rnd (N.rnd (3 / 10 * R) / 100))

/-- The default parameter record (R4 to R7) over a numeric configuration. -/
def Config.defaults (N : Num α) : Params α where
  num := N
  fs := 44100
  nchan := 16
  maxPoly := 32
  topology := .shared
  hasEcho := false
  wmemFrames := 2 ^ 20
  ndesc := 256
  peakPiano := 8192
  peakSquare := 8192
  peakTriangle := 8192
  pianoPartials := Config.pianoPartials N
  -- R5 gives a sum and its value; the value is taken (DESIGN CHOICE, log 23)
  pianoNorm := N.rnd (83711 / 27720)
  pianoEnv := Config.pianoEnv
  pianoDur := Config.pianoDur
  relLen := Config.relLen
  attackLen := 50
  sqSlope := 8
  triSkew := 1 / 4
  cutoffHz := fun c => N.rnd (N.rnd ((c : α) * 44100) / 256)
  resBwHz := fun r => N.rnd (8 * N.rnd (128 - (r : α)))
  bwMin := 1
  vibDepth := fun d => N.rnd ((d : α) / 128)
  vibRateHz := fun s => N.rnd ((s : α) / 16)
  portaSamples := fun t => 441 * t
  chTaps := Config.chTaps N
  chLfoPeriod := 44100
  chLfoDepth := 1 / 2
  chorusWetOnly := true
  echoBase := 11025
  echoGain := [1 / 2, 1 / 4, 1 / 8]
  echoWetOnly := true
  combLen := [1116, 1188, 1277, 1356, 1422, 1491, 1557, 1617]
  apLen := [556, 441, 341, 225]
  stereoSpread := 23
  apFeedback := 1 / 2
  revGain := 3 / 200
  revWet := 1
  revPredelay := 441
  revFeedback := Config.revFeedback N
  revDamp := Config.revDamp N
  reverbWetOnly := true
  panL := fun p => N.rnd (1 - N.rnd ((p : α) / 127))
  panR := fun p => N.rnd ((p : α) / 127)

/-- The parameter record of the running machine: the spec's defaults over the exact rational NUM (DESIGN CHOICE, logs 1 and 2). -/
def Config.params : Params Rat := Config.defaults Numeric.exactNum

end Sys2Proof
end

