-- ==== Sys2Proof/Machine/Types.lean ====
section
/-! DEFINITION. The parts of the state as plain data (10_state.md R22 to R24, R40, R44, R53, R54, R57 to R61), with the values
reset gives them (R40, R53, R58 to R61, R65). -/

namespace Sys2Proof.Machine

/-- One wave frame: a left and a right 16-bit two's complement sample (R54, 20_memory.md R71). -/
structure WaveFrame where
  left : BitVec 16
  right : BitVec 16
  deriving DecidableEq, Repr

/-- Wave memory: the frames written since reset, by rising frame address (R54, DESIGN CHOICE, log 6). -/
abbrev WaveMem := List (Nat × WaveFrame)

/-- A delay memory: its non-zero entries by rising index; every other entry is 0 (R59 to R61, DESIGN CHOICE, log 9). -/
abbrev Line (α : Type) := List (Nat × α)

/-- A left and a right signal value. -/
structure Stereo (α : Type) where
  l : α
  r : α
  deriving DecidableEq, Repr

/-- The direction the vibrato LFO moves: +1 or -1 (R23 `vibDir`). -/
inductive VibDir where
  | up | down
  deriving DecidableEq, Repr

/-- The filter instances of a Square or Triangle voice (R24, 41_filters.md R189). -/
structure VoiceFilter (α : Type) where
  lpA : α
  lpY1 : α
  bpA : α
  bpB : α
  bpC : α
  bpY1 : α
  bpY2 : α
  deriving DecidableEq, Repr

/-- The sample accumulator of a Sampled voice and its copies of the descriptor (R24). -/
structure SamplePlay (α : Type) where
  pos : α
  wBase : Word
  wLen : Word
  wFreq : α
  wLoop : Bool
  wAlways : Bool
  wLs : α
  wLe : α
  deriving DecidableEq, Repr

/-- The variant of a voice with the fields only that variant has (R23 `variant`, R24; DEDUCED, log 8). -/
inductive Tone (α : Type) where
  | piano
  | square (f : VoiceFilter α)
  | triangle (f : VoiceFilter α)
  | sampled (p : SamplePlay α)
  deriving DecidableEq, Repr

section
variable {α : Type}

/-- R23 `variant`. -/
def Tone.variant : Tone α → Variant
  | .piano => .piano
  | .square _ => .square
  | .triangle _ => .triangle
  | .sampled _ => .sampled

/-- One live voice (R23, R24). -/
structure Voice (α : Type) where
  tone : Tone α
  key : BitVec 7
  vel : BitVec 7
  bend : α
  vibM : α
  vibDir : VibDir
  portaOff : α
  portaStep : α
  portaOn : Bool
  phase : α
  age : Nat
  rel : Bool
  relTotal : Nat
  relLeft : Nat
  sus : Bool
  relOnce : Bool
  soft : Bool
  deriving DecidableEq, Repr

/-- One channel context: the registers of R40, the bookkeeping of R44 and the live voices, lowest slot first (R22,
DEDUCED, log 7). -/
structure Channel (α : Type) where
  variant : BitVec 2
  bank : BitVec 14
  program : BitVec 7
  volume : BitVec 7
  pan : BitVec 7
  expression : BitVec 7
  sustain : BitVec 1
  soft : BitVec 1
  modDepth : BitVec 7
  modSpeed : BitVec 7
  bendRange : BitVec 7
  portaEn : BitVec 1
  portaTime : BitVec 7
  cutoff : BitVec 7
  resonance : BitVec 7
  sendReverb : BitVec 7
  sendChorus : BitVec 7
  sendEcho : BitVec 7
  lastPitch : Option (BitVec 7)
  peak : Nat
  voices : List (Voice α)
  deriving DecidableEq, Repr

/-- `CH[c].NV`, the number of live voices (R22, R44). -/
def Channel.nv (ch : Channel α) : Nat := ch.voices.length

/-- The voice slot `V[c][i]`: a voice for `i < NV`, none above (R22). -/
def Channel.slot (ch : Channel α) (i : Nat) : Option (Voice α) := ch.voices[i]?

/-- A channel at reset and after REWIND (R40, R44, R65). -/
def Channel.reset : Channel α where
  variant := 0
  bank := 0
  program := 0
  volume := 100
  pan := 64
  expression := 127
  sustain := 0
  soft := 0
  modDepth := 0
  modSpeed := 64
  bendRange := 2
  portaEn := 0
  portaTime := 0
  cutoff := 0
  resonance := 0
  sendReverb := 0
  sendChorus := 0
  sendEcho := 0
  lastPitch := none
  peak := 0
  voices := []

end

/-- One wave descriptor (R53). -/
structure Descriptor where
  program : BitVec 7
  bank : BitVec 14
  pitchFrom : BitVec 7
  pitchTo : BitVec 7
  nomPitch : BitVec 7
  valid : BitVec 1
  loop : BitVec 1
  alwaysSustain : BitVec 1
  baseAddr : Word
  length : Word
  baseFreq : Word
  loopStart : Word
  loopEnd : Word
  deriving DecidableEq, Repr

/-- A descriptor at reset: every field 0 (R53, R65). -/
def Descriptor.reset : Descriptor := ⟨0, 0, 0, 0, 0, 0, 0, 0, 0, 0, 0, 0, 0⟩

/-- The chorus unit (R58, R59). -/
structure Chorus (α : Type) where
  depth : BitVec 7
  hist : Line α
  w : Nat
  lfoN : Nat
  deriving DecidableEq, Repr

/-- The echo unit (R58, R60); it is never read or written when HAS_ECHO = 0 (DEDUCED, log 10). -/
structure Echo (α : Type) where
  depth : BitVec 7
  histL : Line α
  histR : Line α
  w : Nat
  deriving DecidableEq, Repr

/-- A comb filter of the reverb (R61). -/
structure Comb (α : Type) where
  buf : Line α
  i : Nat
  store : α
  deriving DecidableEq, Repr

/-- An all-pass filter of the reverb (R61). -/
structure AllPass (α : Type) where
  buf : Line α
  i : Nat
  deriving DecidableEq, Repr

/-- The reverb unit (R58, R61): the coefficients `fb` and `damp`, the pre-delay line, and for each side eight combs and
four all-passes. -/
structure Reverb (α : Type) where
  depth : BitVec 7
  fb : α
  damp : α
  pre : Line α
  pw : Nat
  combL : List (Comb α)
  combR : List (Comb α)
  apL : List (AllPass α)
  apR : List (AllPass α)
  deriving DecidableEq, Repr

/-- The three effect units of one owner `o`: `FX[o][0]`, `FX[o][1]`, `FX[o][2]` (R57). -/
structure FxUnits (α : Type) where
  chorus : Chorus α
  echo : Echo α
  reverb : Reverb α
  deriving DecidableEq, Repr

section
variable {α : Type} [Field α]

/-- A cleared comb (R61). -/
def Comb.cleared : Comb α := ⟨[], 0, 0⟩

/-- A cleared all-pass (R61). -/
def AllPass.cleared : AllPass α := ⟨[], 0⟩

/-- The cleared signal state of the chorus, its depth kept (R59). -/
def Chorus.clear (x : Chorus α) : Chorus α := { x with hist := [], w := 0, lfoN := 0 }

/-- The cleared signal state of the echo, its depth kept (R60). -/
def Echo.clear (x : Echo α) : Echo α := { x with histL := [], histR := [], w := 0 }

/-- The cleared signal state of the reverb, `depth`, `fb` and `damp` kept (R61). -/
def Reverb.clear (x : Reverb α) : Reverb α :=
  { x with
    pre := []
    pw := 0
    combL := List.replicate 8 Comb.cleared
    combR := List.replicate 8 Comb.cleared
    apL := List.replicate 4 AllPass.cleared
    apR := List.replicate 4 AllPass.cleared }

/-- Every unit's signal state cleared (R312). -/
def FxUnits.clear (x : FxUnits α) : FxUnits α := ⟨x.chorus.clear, x.echo.clear, x.reverb.clear⟩

/-- The chorus at reset: disabled and cleared (R58, R59, R65). -/
def Chorus.reset : Chorus α := ⟨0, [], 0, 0⟩

/-- The echo at reset: disabled and cleared (R58, R60, R65). -/
def Echo.reset : Echo α := ⟨0, [], [], 0⟩

/-- The reverb at reset: disabled, `fb = damp = 0`, cleared (R58, R61, R65). -/
def Reverb.reset : Reverb α :=
  ⟨0, 0, 0, [], 0, List.replicate 8 Comb.cleared, List.replicate 8 Comb.cleared,
    List.replicate 4 AllPass.cleared, List.replicate 4 AllPass.cleared⟩

/-- The units of one owner at reset (R65). -/
def FxUnits.reset : FxUnits α := ⟨Chorus.reset, Echo.reset, Reverb.reset⟩

end

end Sys2Proof.Machine
end

