-- ==== Sys2Proof/Machine/Arith.lean ====
section
/-! DEFINITION. The arithmetic every rule is written with (00_scope.md R8, section 6.1): the primitive operations, each followed by
`NUM.rnd`, and the exact selections and integer parts. -/

namespace Sys2Proof

variable {α : Type} [Field α] [LinearOrder α] [FloorRing α]

/-- `a + b`, rounded (R8). -/
def Num.add (N : Num α) (a b : α) : α := N.rnd (a + b)

/-- `a - b`, rounded (R8). -/
def Num.sub (N : Num α) (a b : α) : α := N.rnd (a - b)

/-- `a * b`, rounded (R8). -/
def Num.mul (N : Num α) (a b : α) : α := N.rnd (a * b)

/-- `a / b`, rounded (R8). In exact arithmetic no rule divides by 0 (60_exceptions.md R341). Under a rounding NUM that takes a divisor to 0
(`wFreq`, `wLe - wLs`, or another) the division answers 0, as Lean's total division does: the spec gives no value there
(DESIGN CHOICE, log 22; `Num.KeepsSign` rules it out). -/
def Num.div (N : Num α) (a b : α) : α := N.rnd (a / b)

/-- `sin2pi(x)`, rounded (R8). -/
def Num.sin2pi (N : Num α) (x : α) : α := N.rnd (N.sin2piFn x)

/-- `cos2pi(x)`, rounded (R8). -/
def Num.cos2pi (N : Num α) (x : α) : α := N.rnd (N.cos2piFn x)

/-- `exp2(x)`, rounded (R8). -/
def Num.exp2 (N : Num α) (x : α) : α := N.rnd (N.exp2Fn x)

/-- `exp(x)`, rounded (R8). -/
def Num.exp (N : Num α) (x : α) : α := N.rnd (N.expFn x)

/-- `sqrt(x)`, rounded (R8). Where a rounding NUM brings R186's radicand below 0, it is what NUM's `sqrt` answers there (DESIGN CHOICE,
log 22). -/
def Num.sqrt (N : Num α) (x : α) : α := N.rnd (N.sqrtFn x)

/-- A sum accumulated left to right, starting from 0 (R281). -/
def Num.sum (N : Num α) (xs : List α) : α := xs.foldl N.add 0

/-- A product of a first factor and the others, left to right. -/
def Num.prod (N : Num α) (x : α) (xs : List α) : α := xs.foldl N.mul x

/-- `lerp(a, b, t) = a + (b - a) * t` (section 6.1). -/
def Num.lerp (N : Num α) (a b t : α) : α := N.add a (N.mul (N.sub b a) t)

/-- `frac(x) = x - floor(x)` (section 6.1), one primitive operation (DEDUCED, log 13). -/
def Num.frac (N : Num α) (x : α) : α := N.rnd (x - (⌊x⌋ : α))

/-- `fmod(x, s) = x - s * floor(x / s)` (section 6.1), one primitive operation (DEDUCED, log 13). -/
def Num.fmod (N : Num α) (x s : α) : α := N.rnd (x - s * (⌊x / s⌋ : α))

namespace Machine

/-- `clamp(x, lo, hi)` (section 6.1). -/
def clamp (x lo hi : α) : α := if x < lo then lo else if hi < x then hi else x

/-- `trunc(x)`: the fraction dropped toward zero (section 6.1). -/
def trunc (x : α) : Int := if x < 0 then ⌈x⌉ else ⌊x⌋

/-- `|x|` (section 6.1). -/
def absQ (x : α) : α := if x < 0 then -x else x

/-- The real a natural number stands for. -/
def natQ (n : Nat) : α := (n : α)

/-- The real a two's complement sample stands for (`s16`, section 6.1). -/
def sampleQ (w : BitVec 16) : α := (w.toInt : α)

/-- `x / 127` of a 7-bit register, a real division (R295). -/
def per127 (N : Num α) (w : BitVec 7) : α := N.div (natQ w.toNat) 127

/-- R202: the reverberance of a depth, `R = depth * 100 / 127`. -/
def reverberance (N : Num α) (depth : Nat) : α := N.div (N.mul (natQ depth) 100) 127

/-- The sum of two stereo values, side by side. -/
def Stereo.add (N : Num α) (a b : Stereo α) : Stereo α := ⟨N.add a.l b.l, N.add a.r b.r⟩

/-- The stereo value 0. -/
def Stereo.zero : Stereo α := ⟨0, 0⟩

end Machine

end Sys2Proof
end

