-- ==== Sys2Proof/Machine/Operands.lean ====
section
/-! DEFINITION. Operand assembly (30_encoding.md R110), the cutting of a written value to its field (10_state.md R43, R53), and the
packing of registers and descriptor fields into 32-bit words (20_memory.md R80). -/

namespace Sys2Proof.Machine

variable {α : Type} [Field α] [LinearOrder α] [FloorRing α]

/-- R110: the 14-bit bend value `B = (msb << 7) | lsb`. -/
def bendValue (lsb msb : BitVec 7) : BitVec 14 := msb ++ lsb

/-- R258: `(B - 8192) / 8192 * BENDRANGE`, semitones. -/
def bendSemitones (N : Num α) (b : BitVec 14) (range : BitVec 7) : α :=
  N.mul (N.div (((b.toNat : Int) - 8192 : Int) : α) 8192) (natQ range.toNat)

/-- R110: a UQ16.16 operand, `data / 65536`. -/
def uq16_16 (N : Num α) (w : Word) : α := N.div (natQ w.toNat) 65536

/-- R110: a UQ24.8 operand, `data / 256`. -/
def uq24_8 (N : Num α) (w : Word) : α := N.div (natQ w.toNat) 256

/-- R43: the low `n` bits of the data field. -/
def lowBits (n : Nat) (data : Word) : BitVec n := data.setWidth n

/-- R40, R260: channel register `idx` set to the low bits of `data`; none where `idx` is not 0x00..0x11. -/
def Channel.writeReg (ch : Channel α) (idx : Nat) (data : Word) : Option (Channel α) :=
  match idx with
  | 0x00 => some { ch with variant := lowBits 2 data }
  | 0x01 => some { ch with bank := lowBits 14 data }
  | 0x02 => some { ch with program := lowBits 7 data }
  | 0x03 => some { ch with volume := lowBits 7 data }
  | 0x04 => some { ch with pan := lowBits 7 data }
  | 0x05 => some { ch with expression := lowBits 7 data }
  | 0x06 => some { ch with sustain := lowBits 1 data }
  | 0x07 => some { ch with soft := lowBits 1 data }
  | 0x08 => some { ch with modDepth := lowBits 7 data }
  | 0x09 => some { ch with modSpeed := lowBits 7 data }
  | 0x0A => some { ch with bendRange := lowBits 7 data }
  | 0x0B => some { ch with portaEn := lowBits 1 data }
  | 0x0C => some { ch with portaTime := lowBits 7 data }
  | 0x0D => some { ch with cutoff := lowBits 7 data }
  | 0x0E => some { ch with resonance := lowBits 7 data }
  | 0x0F => some { ch with sendReverb := lowBits 7 data }
  | 0x10 => some { ch with sendChorus := lowBits 7 data }
  | 0x11 => some { ch with sendEcho := lowBits 7 data }
  | _ => none

/-- R44: LASTPITCH as a word, 0xFFFFFFFF for none. -/
def lastPitchWord : Option (BitVec 7) → Word
  | some p => p.setWidth 32
  | none => 0xFFFFFFFF

/-- R80, space 1: the word of channel register or bookkeeping field `idx` (R40, R44), 0 where there is none. -/
def Channel.readReg (ch : Channel α) (idx : Nat) : Word :=
  match idx with
  | 0x00 => ch.variant.setWidth 32
  | 0x01 => ch.bank.setWidth 32
  | 0x02 => ch.program.setWidth 32
  | 0x03 => ch.volume.setWidth 32
  | 0x04 => ch.pan.setWidth 32
  | 0x05 => ch.expression.setWidth 32
  | 0x06 => ch.sustain.setWidth 32
  | 0x07 => ch.soft.setWidth 32
  | 0x08 => ch.modDepth.setWidth 32
  | 0x09 => ch.modSpeed.setWidth 32
  | 0x0A => ch.bendRange.setWidth 32
  | 0x0B => ch.portaEn.setWidth 32
  | 0x0C => ch.portaTime.setWidth 32
  | 0x0D => ch.cutoff.setWidth 32
  | 0x0E => ch.resonance.setWidth 32
  | 0x0F => ch.sendReverb.setWidth 32
  | 0x10 => ch.sendChorus.setWidth 32
  | 0x11 => ch.sendEcho.setWidth 32
  | 0x20 => BitVec.ofNat 32 ch.nv
  | 0x21 => lastPitchWord ch.lastPitch
  | 0x22 => BitVec.ofNat 32 ch.peak
  | _ => 0

/-- R53, R317: descriptor field number `field` written from `data`; none where there is no such field. -/
def Descriptor.writeField (x : Descriptor) (field : Nat) (data : Word) : Option Descriptor :=
  match field with
  | 0 => some { x with program := data.extractLsb' 0 7, bank := data.extractLsb' 8 14 }
  | 1 => some { x with
      pitchFrom := data.extractLsb' 0 7, pitchTo := data.extractLsb' 8 7, nomPitch := data.extractLsb' 16 7 }
  | 2 => some { x with
      valid := data.extractLsb' 0 1, loop := data.extractLsb' 1 1, alwaysSustain := data.extractLsb' 2 1 }
  | 3 => some { x with baseAddr := data }
  | 4 => some { x with length := data }
  | 5 => some { x with baseFreq := data }
  | 6 => some { x with loopStart := data }
  | 7 => some { x with loopEnd := data }
  | _ => none

/-- R80, space 3: descriptor field number `field` packed as in R53, unused bits 0; 0 where there is no such field. -/
def Descriptor.readField (x : Descriptor) (field : Nat) : Word :=
  match field with
  | 0 => (0 : BitVec 10) ++ (x.bank ++ ((0 : BitVec 1) ++ x.program))
  | 1 => (0 : BitVec 9) ++ (x.nomPitch ++ ((0 : BitVec 1) ++ (x.pitchTo ++ ((0 : BitVec 1) ++ x.pitchFrom))))
  | 2 => (0 : BitVec 29) ++ (x.alwaysSustain ++ (x.loop ++ x.valid))
  | 3 => x.baseAddr
  | 4 => x.length
  | 5 => x.baseFreq
  | 6 => x.loopStart
  | 7 => x.loopEnd
  | _ => 0

end Sys2Proof.Machine
end

