-- ==== Sys2Proof/Machine/Filters.lean ====
section
/-! DEFINITION. The filters (41_filters.md): steps and coefficients of the one-pole low-pass and high-pass and of the two-pole
resonator. A step answers the output and the new history. -/

namespace Sys2Proof.Machine

variable {α : Type} [Field α] [LinearOrder α] [FloorRing α]

/-- R180: the low-pass step; the output is also the new history `y1`. -/
def lpStep (N : Num α) (a y1 x : α) : α := N.add (N.mul a x) (N.mul (N.sub 1 a) y1)

/-- R181, R183: the time constant `RC` of a cutoff, 0 for a cutoff of 0 (90_conflicts.md C4). -/
def rcOf (P : Params α) (fc : α) : α :=
  let fc' := clamp fc 0 (P.num.div (natQ P.fs) 2)
  if fc' = 0 then 0 else P.num.div 1 (P.num.mul (P.num.mul 2 P.num.piConst) fc')

/-- R181: the low-pass coefficient. -/
def lpCoef (P : Params α) (fc : α) : α :=
  P.num.div 1 (P.num.add 1 (P.num.mul (rcOf P fc) (natQ P.fs)))

/-- The history of a high-pass instance: previous input and previous output (R182). -/
structure HighPass (α : Type) where
  x1 : α
  y1 : α
  deriving DecidableEq, Repr

/-- R182: the high-pass step. -/
def hpStep (N : Num α) (a : α) (h : HighPass α) (x : α) : α × HighPass α :=
  let y := N.mul (N.add (N.sub x h.x1) h.y1) a
  (y, ⟨x, y⟩)

/-- R183: the high-pass coefficient. -/
def hpCoef (P : Params α) (fc : α) : α :=
  let rc := rcOf P fc
  P.num.div rc (P.num.add rc (P.num.div 1 (natQ P.fs)))

/-- The coefficients of a band-pass instance (R184). -/
structure BandCoef (α : Type) where
  a : α
  b : α
  c : α
  deriving DecidableEq, Repr

/-- R184: the band-pass output; the new history is the output and the old `y1`. -/
def bpStep (N : Num α) (k : BandCoef α) (y1 y2 x : α) : α :=
  N.sub (N.sub (N.mul k.a x) (N.mul k.b y1)) (N.mul k.c y2)

/-- The two scale modes of R186. -/
inductive ScaleMode where
  | pitched | noise
  deriving DecidableEq, Repr

/-- R186: the scale factor of the band-pass. -/
def bpScale (N : Num α) (b c : α) : ScaleMode → α
  | .pitched => N.mul (N.sub 1 c) (N.sqrt (N.sub 1 (N.div (N.mul b b) (N.mul 4 c))))
  | .noise =>
    N.sqrt (N.div (N.mul (N.sub (N.mul (N.add 1 c) (N.add 1 c)) (N.mul b b)) (N.sub 1 c)) (N.add 1 c))

/-- R185, R187: the band-pass coefficients, centre frequency and bandwidth clamped. -/
def bpCoef (P : Params α) (fc bw : α) (mode : ScaleMode) : BandCoef α :=
  let N := P.num
  let half := N.div (natQ P.fs) 2
  let fc' := clamp fc 0 half
  let bw' := clamp bw P.bwMin half
  let c := N.exp (N.div (N.mul (N.mul (-2) N.piConst) bw') (natQ P.fs))
  let b := N.mul (-(N.div (N.mul 4 c) (N.add 1 c))) (N.cos2pi (N.div fc' (natQ P.fs)))
  ⟨bpScale N b c mode, b, c⟩

end Sys2Proof.Machine
end

