-- ==== Sys2Proof/Machine/Flags.lean ====
section
/-! DEFINITION. The one-bit flags of the block (10_state.md R30) and the rules that change them: the release flags NOTEOFF sets
(44_channel_commands.md R255), the sustain latch (R262, 40_voice.md R153), and the counters that saturate or wrap (R293, R295). -/

namespace Sys2Proof.Machine

variable {α : Type} [Field α] [LinearOrder α] [FloorRing α]

/-- A one-bit register read as a flag. -/
def flag (b : BitVec 1) : Bool := b == 1

/-- R30, R255: the always-sustain flag of a voice; only a Sampled voice has one. -/
def Voice.alwaysSustain (v : Voice α) : Bool :=
  match v.tone with
  | .sampled p => p.wAlways
  | _ => false

/-- R255: the release budget of a voice released with note-off velocity `vel`: none left where a Piano voice is already past its
table's end. -/
def releaseBudget (P : Params α) (v : Voice α) (vel : Nat) : Nat :=
  if v.tone.variant = .piano ∧ v.age ≥ P.pianoDur v.key.toNat then 0 else P.relLen v.tone.variant vel

/-- R255: a voice put into release. -/
def Voice.release (P : Params α) (v : Voice α) (vel : Nat) : Voice α :=
  { v with
    rel := true
    relOnce := true
    relTotal := P.relLen v.tone.variant vel
    relLeft := releaseBudget P v vel }

/-- R262: what writing SUSTAIN does to one voice: pedal down holds a voice not yet released (the one-way latch), pedal up lets every
voice go. -/
def Voice.pedal (v : Voice α) (down : Bool) : Voice α :=
  if down then (if v.relOnce then v else { v with sus := true }) else { v with sus := false }

/-- R262: the side effect of writing SUSTAIN, over the live voices of the channel. -/
def Channel.applySustain (ch : Channel α) : Channel α :=
  { ch with voices := ch.voices.map (fun v => v.pedal (flag ch.sustain)) }

/-- R293: `(x + 1) mod 2^32`. -/
def wrapSucc (x : Word) : Word := x + 1

/-- R293: `min(x + 1, 2^32 - 1)`. -/
def satSucc (x : Word) : Word := if x = 0xFFFFFFFF then x else x + 1

/-- R154: `min(age + 1, 2^32 - 1)`. -/
def ageSucc (age : Nat) : Nat := min (age + 1) (2 ^ 32 - 1)

end Sys2Proof.Machine
end

