-- ==== Sys2Proof/Machine/State.lean ====
section
/-! DEFINITION. The whole state of the block (10_state.md R20), the reasons a step could stop (there are none), and the state after
power-on reset (R65, 70_reset_and_hazards.md R380). -/

namespace Sys2Proof.Machine

/-- The state of the block (R20): the global registers (R50, R51), the channel contexts (R40, R44, R22), the descriptor table
(R53), wave memory (R54), the effect units (R57), the output stream (20_memory.md R78), and the model's own field `stream`, the
command bytes presented and not yet executed (DESIGN CHOICE, log 4). Its signal values are of type `α`: `State` alone is the state of the
running machine, over the rationals; `State ℝ` is that of the spec's default NUM (log 1). -/
structure State (α : Type := Rat) where
  /-- `G.MASTER` (R50). -/
  master : BitVec 7
  /-- `G.FRAMECNT` (R51). -/
  frameCnt : Word
  /-- `G.SILENCE_CNT` (R51). -/
  silenceCnt : Word
  /-- `G.OUT_PEAK_L` (R51). -/
  outPeakL : Nat
  /-- `G.OUT_PEAK_R` (R51). -/
  outPeakR : Nat
  /-- `G.WPTR` (R51). -/
  wptr : Word
  /-- `CH[0..NCHAN-1]` (R40). -/
  channels : List (Channel α)
  /-- `WD[0..NDESC-1]` (R53). -/
  wd : List Descriptor
  /-- `WMEM` (R54). -/
  wmem : WaveMem
  /-- `FX[o]`, by owner (R57). -/
  fx : List (FxUnits α)
  /-- `OUT` (20_memory.md R78). -/
  out : List Byte
  /-- DESIGN CHOICE: the command bytes the host has presented and the block has not executed yet (log 4). -/
  stream : List Byte
  deriving DecidableEq, Repr

/-- Why a step faults: never. The block raises no exception, fault or trap and every command is total (60_exceptions.md R340),
so the type has no constructor. -/
inductive Fault where
  deriving DecidableEq, Repr

/-- Why a step is refused. The block "never refuses a word" (10_state.md R21). -/
inductive Refusal where
  /-- Raised by an arm of `exec` that has no meaning yet, with its mnemonic; no arm of this model raises it. Safe: the
  model stops where the hardware goes on. -/
  | notModelled (mnemonic : String)
  deriving DecidableEq, Repr

/-- The state after power-on reset of a block built with `P` (R65, R380). -/
def State.resetOf {α : Type} [Field α] (P : Params α) : State α where
  master := 127
  frameCnt := 0
  silenceCnt := 0
  outPeakL := 0
  outPeakR := 0
  wptr := 0
  channels := List.replicate P.nchan Channel.reset
  wd := List.replicate P.ndesc Descriptor.reset
  wmem := []
  fx := List.replicate P.owners FxUnits.reset
  out := []
  stream := []

/-- The state after power-on reset (R65, R380). -/
def State.reset : State := State.resetOf Config.params

end Sys2Proof.Machine
end

