-- ==== Sys2Proof/Machine/Ops.lean ====
section
/-! DEFINITION. The named operations over memories and registers: the canonical sparse list, wave memory (20_memory.md R72, R73),
delay lines (R92), the output stream (R74, R78), channels, descriptors and effect owners by index. The block takes no exception
and returns from none (60_exceptions.md R340, R347, R348), so there is no such operation here. -/

namespace Sys2Proof.Machine

variable {α : Type} [Field α] [LinearOrder α] [FloorRing α]

/-- The entry of a key in a list sorted by key. -/
def sparseFind {α : Type} : List (Nat × α) → Nat → Option α
  | [], _ => none
  | (k, v) :: rest, i => if i = k then some v else sparseFind rest i

/-- The list with the entry of `i` set to `v`. -/
def sparseSet {α : Type} : List (Nat × α) → Nat → α → List (Nat × α)
  | [], i, v => [(i, v)]
  | (k, u) :: rest, i, v =>
    if i < k then (i, v) :: (k, u) :: rest
    else if i = k then (i, v) :: rest
    else (k, u) :: sparseSet rest i v

/-- The list with the entry of `i` removed. -/
def sparseErase {α : Type} : List (Nat × α) → Nat → List (Nat × α)
  | [], _ => []
  | (k, u) :: rest, i => if i = k then rest else (k, u) :: sparseErase rest i

/-- The canonical form: keys strictly rising, each below `bound`. -/
def sparseWf {α : Type} (bound : Nat) : List (Nat × α) → Bool
  | [] => true
  | [(k, _)] => decide (k < bound)
  | (k, _) :: (k', u) :: rest => decide (k < k') && sparseWf bound ((k', u) :: rest)

/-- The canonical form of wave memory: frame addresses strictly rising and below `WMEM_FRAMES` (R70, R73). -/
def Memory.wf (P : Params α) (m : WaveMem) : Bool := sparseWf P.wmemFrames m

/-- The frame a 32-bit word holds: left sample low, right sample high (R75, R106). -/
def frameOfWord (w : Word) : WaveFrame := ⟨w.extractLsb' 0 16, w.extractLsb' 16 16⟩

/-- `WaveRead(a)` (R72): the frame written there, the FREE VALUE where none has been (U3, log 6), and (0, 0) beyond the
memory. -/
def waveRead (P : Params α) (m : WaveMem) (a : Nat) : WaveFrame :=
  if a < P.wmemFrames then
    match sparseFind m a with
    | some f => f
    | none => frameOfWord (Config.unwrittenFrame a)
  else ⟨0, 0⟩

/-- `WaveWrite(a, L, R)` (R73): nothing happens beyond the memory. -/
def waveWrite (P : Params α) (m : WaveMem) (a : Nat) (f : WaveFrame) : WaveMem :=
  if a < P.wmemFrames then sparseSet m a f else m

/-- `buf[i]` of a delay memory (R92). -/
def lineRead (b : Line α) (i : Nat) : α := (sparseFind b i).getD 0

/-- `buf[i] <- v` of a delay memory; a 0 is not listed (DESIGN CHOICE, log 9). -/
def lineWrite (b : Line α) (i : Nat) (v : α) : Line α := if v = 0 then sparseErase b i else sparseSet b i v

/-- The canonical form of a delay memory of `len` entries: rising indices below `len`, no entry 0. -/
def lineWf (len : Nat) (b : Line α) : Bool := sparseWf len b && b.all (fun e => decide (e.2 ≠ 0))

/-- `(w - D) mod H` with the non-negative remainder, for `D <= H` (R92, R295). -/
def ringIndex (w d h : Nat) : Nat := (w + h - d) % h

/-- `u16(i)` (00_scope.md section 6.1). -/
def u16 (i : Int) : BitVec 16 := BitVec.ofInt 16 i

/-- The four bytes of a frame: left low, left high, right low, right high (R74). -/
def frameBytes (l r : Int) : List Byte :=
  [(u16 l).extractLsb' 0 8, (u16 l).extractLsb' 8 8, (u16 r).extractLsb' 0 8, (u16 r).extractLsb' 8 8]

/-- `Emit(L, R)` (R78). -/
def emit (out : List Byte) (l r : Int) : List Byte := out ++ frameBytes l r

/-- Channel `c`, none where `c >= NCHAN` (30_encoding.md R112). -/
def State.channel? (s : State α) (c : Nat) : Option (Channel α) := s.channels[c]?

/-- The state with channel `c` replaced; unchanged where there is no channel `c` (R112). -/
def State.setChannel (s : State α) (c : Nat) (ch : Channel α) : State α := { s with channels := s.channels.set c ch }

/-- The state with channel `c`, if it exists, changed by `f` (R112). -/
def State.onChannel (s : State α) (c : Nat) (f : Channel α → Channel α) : State α :=
  match s.channel? c with
  | some ch => s.setChannel c (f ch)
  | none => s

/-- The state with descriptor `d`, if it exists, changed by `f` (R112, R317). -/
def State.onDescriptor (s : State α) (d : Nat) (f : Descriptor → Descriptor) : State α :=
  match s.wd[d]? with
  | some x => { s with wd := s.wd.set d (f x) }
  | none => s

/-- The state with the effect units of owner `o`, if it exists, changed by `f` (R112, R202). -/
def State.onOwner (s : State α) (o : Nat) (f : FxUnits α → FxUnits α) : State α :=
  match s.fx[o]? with
  | some x => { s with fx := s.fx.set o (f x) }
  | none => s

/-- The owner an effect index names: the one owner when SHARED, the channel when PRIVATE (R57, R202). -/
def ownerIndex (P : Params α) (owner : Nat) : Nat :=
  match P.topology with
  | .shared => 0
  | .priv => owner

end Sys2Proof.Machine
end

