-- ==== Sys2Proof/Machine/Voice.lean ====
section
/-! DEFINITION. The voice engine (40_voice.md): what one voice does in one frame. -/

namespace Sys2Proof.Machine

variable {α : Type} [Field α] [LinearOrder α] [FloorRing α]

/-- R132: the voice has no release budget left, its envelope is exhausted, or its sample has run out. -/
def Voice.terminated (P : Params α) (v : Voice α) : Bool :=
  (v.rel && !v.sus && v.relLeft == 0) ||
    match v.tone with
    | .piano => decide (P.pianoDur v.key.toNat ≤ v.age)
    | .square _ => false
    | .triangle _ => false
    | .sampled p => decide ((p.wLen.toNat : Int) ≤ ⌊p.pos⌋ + 1)

/-- The frequency of a (fractional) key: `440 * exp2((x - 69) / 12)` (R133, R253). -/
def keyFrequency (N : Num α) (x : α) : α := N.mul 440 (N.exp2 (N.div (N.sub x 69) 12))

/-- R133: the frequency law. -/
def Voice.frequency (N : Num α) (v : Voice α) : α :=
  keyFrequency N (N.add (N.add (N.add (natQ v.key.toNat) v.bend) v.vibM) v.portaOff)

/-- R135: the release gain. -/
def Voice.releaseGain (N : Num α) (v : Voice α) : α :=
  if !v.rel then 1
  else if v.relLeft = v.relTotal then 1
  else N.div (natQ v.relLeft) (natQ v.relTotal)

/-- R136: the velocity gain. -/
def Voice.velGain (N : Num α) (v : Voice α) : α := per127 N v.vel

/-- R136: the soft-pedal gain. -/
def Voice.softGain (v : Voice α) : α := if v.soft then 1 / 2 else 1

/-- R138: the partials' terms from `k` on, `PIANO_W[k] * sin2pi((k + 1) * phase + PIANO_PH[k])`. -/
def pianoTerms (N : Num α) (phase : α) : Nat → List (α × α) → List α
  | _, [] => []
  | k, (w, ph) :: rest =>
    N.mul w (N.sin2pi (N.add (N.mul (natQ (k + 1)) phase) ph)) :: pianoTerms N phase (k + 1) rest

/-- R138: the Piano waveform. -/
def pianoWave (P : Params α) (phase : α) : α :=
  P.num.mul (P.num.div 1 P.pianoNorm) (P.num.sum (pianoTerms P.num phase 0 P.pianoPartials))

/-- R139: the breakpoint table at normalised time `t`; past the last breakpoint, which R132 keeps the voice from reaching, the
last gain (DEDUCED, log 14). -/
def envelopeAt (N : Num α) (t : α) : List (α × α) → α
  | [] => 0
  | [a] => a.2
  | a :: b :: rest =>
    if t < b.1 then N.lerp a.2 b.2 (N.div (N.sub t a.1) (N.sub b.1 a.1)) else envelopeAt N t (b :: rest)

/-- R139: the Piano envelope. -/
def Voice.pianoEnv (P : Params α) (v : Voice α) : α :=
  envelopeAt P.num (P.num.div (natQ v.age) (natQ (P.pianoDur v.key.toNat))) P.pianoEnv

/-- R141: the unit triangle that starts at 0 and rises first. -/
def foldWave (N : Num α) (ph : α) : α :=
  if ph < 1 / 4 then N.mul 4 ph
  else if ph < 3 / 4 then N.sub 2 (N.mul 4 ph)
  else N.sub (N.mul 4 ph) 4

/-- R141: the Square waveform. -/
def squareWave (P : Params α) (ph : α) : α := clamp (P.num.mul P.sqSlope (foldWave P.num ph)) (-1) 1

/-- R142: the Triangle waveform. -/
def triangleWave (P : Params α) (ph : α) : α :=
  let N := P.num
  let s := P.triSkew
  if ph < s then N.add (-1) (N.div (N.mul 2 ph) s)
  else N.sub 1 (N.div (N.mul 2 (N.sub ph s)) (N.sub 1 s))

/-- R143: the attack ramp of Square and Triangle. -/
def attackGain (P : Params α) (age : Nat) : α :=
  if P.attackLen = 0 then 1 else P.num.div (natQ (min age P.attackLen)) (natQ P.attackLen)

/-- R144: the band-pass step inside a voice. -/
def VoiceFilter.bandpass (N : Num α) (f : VoiceFilter α) (x : α) : α × VoiceFilter α :=
  let y := bpStep N ⟨f.bpA, f.bpB, f.bpC⟩ f.bpY1 f.bpY2 x
  (y, { f with bpY1 := y, bpY2 := f.bpY1 })

/-- R145: the low-pass step inside a voice. -/
def VoiceFilter.lowpass (N : Num α) (f : VoiceFilter α) (u : α) : α × VoiceFilter α :=
  let w := lpStep N f.lpA f.lpY1 u
  (w, { f with lpY1 := w })

/-- R140: the filter path: twice the band-pass is added back, the sum goes through the low-pass. -/
def VoiceFilter.filtered (N : Num α) (f : VoiceFilter α) (x : α) : α × VoiceFilter α :=
  let (y, f') := f.bandpass N x
  f'.lowpass N (N.add x (N.mul 2 y))

/-- R147: the frames on both sides of the read position, interpolated. -/
def SamplePlay.read (P : Params α) (mem : WaveMem) (p : SamplePlay α) : Stereo α :=
  let i := ⌊p.pos⌋
  let t := P.num.sub p.pos (i : α)
  let f0 := waveRead P mem (p.wBase.toNat + i.toNat)
  let f1 := waveRead P mem (p.wBase.toNat + i.toNat + 1)
  ⟨P.num.lerp (sampleQ f0.left) (sampleQ f1.left) t, P.num.lerp (sampleQ f0.right) (sampleQ f1.right) t⟩

/-- R148: the position advance and the fractional loop wrap. -/
def SamplePlay.advance (N : Num α) (p : SamplePlay α) (f : α) : SamplePlay α :=
  let pos := N.add p.pos (N.div f p.wFreq)
  if p.wLoop ∧ p.wLs < p.wLe ∧ p.wLe ≤ pos then
    { p with pos := N.add p.wLs (N.fmod (N.sub pos p.wLe) (N.sub p.wLe p.wLs)) }
  else { p with pos := pos }

/-- The gains every variant is scaled by, in the order of R131: velocity, envelope or attack, release, soft. -/
def Voice.gains (N : Num α) (v : Voice α) (shape : α) : List α :=
  [v.velGain N, shape, v.releaseGain N, v.softGain]

/-- R131 step 4, R137, R140, R146: the voice's output in this frame, and its tone with the filter histories moved on. -/
def Voice.output (P : Params α) (mem : WaveMem) (v : Voice α) : Stereo α × Tone α :=
  let N := P.num
  match v.tone with
  | .piano =>
    let s := N.prod P.peakPiano (v.gains N (v.pianoEnv P) ++ [pianoWave P v.phase])
    (⟨s, s⟩, .piano)
  | .square f =>
    let (w, f') := f.filtered N (squareWave P v.phase)
    let s := N.prod P.peakSquare (v.gains N (attackGain P v.age) ++ [w])
    (⟨s, s⟩, .square f')
  | .triangle f =>
    let (w, f') := f.filtered N (triangleWave P v.phase)
    let s := N.prod P.peakTriangle (v.gains N (attackGain P v.age) ++ [w])
    (⟨s, s⟩, .triangle f')
  | .sampled p =>
    let g := N.prod (v.velGain N) [v.releaseGain N, v.softGain]
    let o := p.read P mem
    (⟨N.mul o.l g, N.mul o.r g⟩, .sampled p)

/-- R134: the phase update of the procedural variants. -/
def nextPhase (P : Params α) (phase f : α) : α := P.num.frac (P.num.add phase (P.num.div f (natQ P.fs)))

/-- R131 step 5, first line: the position of a Sampled voice (R148) or the phase of any other (R134) moves on. -/
def Voice.advanceOscillator (P : Params α) (v : Voice α) (f : α) : Voice α :=
  match v.tone with
  | .sampled p => { v with tone := .sampled (p.advance P.num f) }
  | _ => { v with phase := nextPhase P v.phase f }

/-- R23: the number a direction stands for, +1 or -1. -/
def VibDir.sign : VibDir → α
  | .up => 1
  | .down => -1

/-- R150: `step = 4 * D * VIB_RATE_HZ(MODSPEED) / FS`, semitones per frame. -/
def vibratoIncrement (P : Params α) (ch : Channel α) : α :=
  P.num.div (P.num.mul (P.num.mul 4 (P.vibDepth ch.modDepth.toNat)) (P.vibRateHz ch.modSpeed.toNat)) (natQ P.fs)

/-- R150: the vibrato LFO. -/
def Voice.vibratoStep (P : Params α) (ch : Channel α) (v : Voice α) : Voice α :=
  let d := P.vibDepth ch.modDepth.toNat
  let m := P.num.add v.vibM (P.num.mul v.vibDir.sign (vibratoIncrement P ch))
  if d ≤ m then { v with vibM := d, vibDir := .down }
  else if m ≤ -d then { v with vibM := -d, vibDir := .up }
  else { v with vibM := m }

/-- R152: the glide; it ends when the offset reaches or passes 0. -/
def Voice.portamentoStep (N : Num α) (v : Voice α) : Voice α :=
  if v.portaOn then
    let n := N.sub v.portaOff v.portaStep
    if n = 0 ∨ decide (0 < n) ≠ decide (0 < v.portaOff) then { v with portaOff := 0, portaOn := false }
    else { v with portaOff := n }
  else v

/-- R154: the age, and the release budget while nothing holds the release. -/
def Voice.ageAndBudgetStep (v : Voice α) : Voice α :=
  { v with
    age := ageSucc v.age
    relLeft := if v.rel && !v.sus then v.relLeft - 1 else v.relLeft }

/-- R131 step 5: the voice as the next frame finds it, `f` being this frame's frequency. -/
def Voice.moveOn (P : Params α) (ch : Channel α) (v : Voice α) (f : α) : Voice α :=
  (((v.advanceOscillator P f).vibratoStep P ch).portamentoStep P.num).ageAndBudgetStep

/-- R130, R131: `advance`. None is `Silence`; otherwise the voice's output and the voice as the next frame finds it. -/
def Voice.advance (P : Params α) (mem : WaveMem) (ch : Channel α) (v : Voice α) : Option (Stereo α × Voice α) :=
  if v.terminated P then none
  else
    let f := v.frequency P.num
    let (o, tone) := v.output P mem
    some (o, { v with tone := tone }.moveOn P ch f)

end Sys2Proof.Machine
end

