-- ==== Sys2Proof/Machine/ChannelCommands.lean ====
section
/-! DEFINITION. The channel commands NOTEON, NOTEOFF, PBEND and WRCH (44_channel_commands.md). -/

namespace Sys2Proof.Machine

variable {α : Type} [Field α] [LinearOrder α] [FloorRing α]

/-- R252: the descriptor takes part in the search and covers key `p` of the channel's instrument. -/
def Descriptor.covers (ch : Channel α) (p : BitVec 7) (x : Descriptor) : Bool :=
  flag x.valid && decide (0 < x.baseFreq.toNat) && x.bank == ch.bank && x.program == ch.program
    && decide (x.pitchFrom.toNat ≤ p.toNat) && decide (p.toNat ≤ x.pitchTo.toNat)

/-- R252: the lowest-numbered descriptor that covers the key. -/
def findDescriptor (wd : List Descriptor) (ch : Channel α) (p : BitVec 7) : Option Descriptor :=
  wd.find? (fun x => x.covers ch p)

/-- R253: the filters of a new Square or Triangle voice. -/
def newFilter (P : Params α) (ch : Channel α) (p : BitVec 7) : VoiceFilter α :=
  let k := bpCoef P (keyFrequency P.num (natQ p.toNat)) (P.resBwHz ch.resonance.toNat) .pitched
  { lpA := lpCoef P (P.cutoffHz ch.cutoff.toNat), lpY1 := 0, bpA := k.a, bpB := k.b, bpC := k.c, bpY1 := 0, bpY2 := 0 }

/-- R251: the sample state of a new Sampled voice, its descriptor's values copied. -/
def newSample (P : Params α) (d : Descriptor) : SamplePlay α where
  pos := 0
  wBase := d.baseAddr
  wLen := d.length
  wFreq := uq16_16 P.num d.baseFreq
  wLoop := flag d.loop
  wAlways := flag d.alwaysSustain
  wLs := uq24_8 P.num d.loopStart
  wLe := uq24_8 P.num d.loopEnd

/-- R250: the tone of a new voice; none where VARIANT is Sampled and no descriptor covers the key. -/
def newTone (P : Params α) (wd : List Descriptor) (ch : Channel α) (p : BitVec 7) : Option (Tone α) :=
  match Variant.ofNumber ch.variant with
  | .piano => some .piano
  | .square => some (.square (newFilter P ch p))
  | .triangle => some (.triangle (newFilter P ch p))
  | .sampled => (findDescriptor wd ch p).map fun d => .sampled (newSample P d)

/-- R254: the glide of a new voice: `portaOff`, `portaStep`, `portaOn`. -/
def newGlide (P : Params α) (ch : Channel α) (p : BitVec 7) : α × α × Bool :=
  let n := P.portaSamples ch.portaTime.toNat
  match ch.lastPitch with
  | none => (0, 0, false)
  | some q =>
    if ch.portaEn = 1 ∧ q ≠ p ∧ 0 < n then
      let off := P.num.sub (natQ q.toNat) (natQ p.toNat)
      (off, P.num.div off (natQ n), true)
    else (0, 0, false)

/-- R251: a new voice of tone `tone`. -/
def newVoice (P : Params α) (ch : Channel α) (p v : BitVec 7) (tone : Tone α) : Voice α :=
  let g := newGlide P ch p
  { tone := tone, key := p, vel := v, bend := 0, vibM := 0, vibDir := .up
    portaOff := g.1, portaStep := g.2.1, portaOn := g.2.2
    phase := 0, age := 0, rel := false, relTotal := 0, relLeft := 0
    sus := flag ch.sustain, relOnce := false, soft := flag ch.soft }

/-- R250 with a velocity above 0: the voice enters at slot NV and LASTPITCH takes its key; dropped at the polyphony cap (X1) and
where no descriptor covers the key (X2). -/
def Channel.allocate (P : Params α) (wd : List Descriptor) (ch : Channel α) (p v : BitVec 7) : Channel α :=
  if ch.nv ≥ P.maxPoly then ch
  else
    match newTone P wd ch p with
    | none => ch
    | some tone => { ch with voices := ch.voices ++ [newVoice P ch p v tone], lastPitch := some p }

/-- R255: the lowest slot with the key that is not releasing is released; an always-sustain match consumes the command. -/
def releaseFirst (P : Params α) (p : BitVec 7) (vel : Nat) : List (Voice α) → List (Voice α)
  | [] => []
  | t :: rest =>
    if t.key = p ∧ t.rel = false then
      if t.alwaysSustain then t :: rest else t.release P vel :: rest
    else t :: releaseFirst P p vel rest

/-- R255: NOTEOFF on one channel. -/
def Channel.noteOff (P : Params α) (ch : Channel α) (p : BitVec 7) (vel : Nat) : Channel α :=
  { ch with voices := releaseFirst P p vel ch.voices }

/-- R258: the voice in slot NV - 1 bent; none of them where there is no voice. -/
def bendLast (bend : α) : List (Voice α) → List (Voice α)
  | [] => []
  | [t] => [{ t with bend := bend }]
  | t :: u :: rest => t :: bendLast bend (u :: rest)

/-- R258: PBEND on one channel. -/
def Channel.pitchBend (P : Params α) (ch : Channel α) (lsb msb : BitVec 7) : Channel α :=
  { ch with voices := bendLast (bendSemitones P.num (bendValue lsb msb) ch.bendRange) ch.voices }

/-- R260, R262: WRCH on one channel; unchanged where the index is no writable register. -/
def Channel.write (ch : Channel α) (idx : BitVec 8) (data : Word) : Channel α :=
  match ch.writeReg idx.toNat data with
  | none => ch
  | some ch' => if idx = 0x06 then ch'.applySustain else ch'

/-- NOTEOFF c, p, v (R255); a no-op where there is no channel `c` (R112). -/
def noteOffOp (P : Params α) (c : BitVec 8) (p v : BitVec 7) (s : State α) : State α :=
  if c.toNat < P.nchan then s.onChannel c.toNat (fun ch => ch.noteOff P p v.toNat) else s

/-- NOTEON c, p, v (R250): the channel check, then velocity 0 as NOTEOFF with velocity 0, then the allocation (R346). -/
def noteOnOp (P : Params α) (c : BitVec 8) (p v : BitVec 7) (s : State α) : State α :=
  if c.toNat < P.nchan then
    if v = 0 then noteOffOp P c p 0 s
    else s.onChannel c.toNat (fun ch => ch.allocate P s.wd p v)
  else s

/-- PBEND c, lsb, msb (R258). -/
def pitchBendOp (P : Params α) (c : BitVec 8) (lsb msb : BitVec 7) (s : State α) : State α :=
  if c.toNat < P.nchan then s.onChannel c.toNat (fun ch => ch.pitchBend P lsb msb) else s

/-- WRCH c, idx, data (R260). -/
def writeChannelOp (P : Params α) (c idx : BitVec 8) (data : Word) (s : State α) : State α :=
  if c.toNat < P.nchan then s.onChannel c.toNat (fun ch => ch.write idx data) else s

/-- The meaning of NOTEON (R250). -/
def execNoteon (c : BitVec 8) (p v : BitVec 7) (s : State) : Host.Outcome State Fault Refusal :=
  .next (noteOnOp Config.params c p v s)

/-- The meaning of NOTEOFF (R255). -/
def execNoteoff (c : BitVec 8) (p v : BitVec 7) (s : State) : Host.Outcome State Fault Refusal :=
  .next (noteOffOp Config.params c p v s)

/-- The meaning of PBEND (R258). -/
def execPbend (c : BitVec 8) (lsb msb : BitVec 7) (s : State) : Host.Outcome State Fault Refusal :=
  .next (pitchBendOp Config.params c lsb msb s)

/-- The meaning of WRCH (R260). -/
def execWrch (c idx : BitVec 8) (data : Word) (s : State) : Host.Outcome State Fault Refusal :=
  .next (writeChannelOp Config.params c idx data s)

end Sys2Proof.Machine
end

