-- ==== Sys2Proof/Machine/Effects.lean ====
section
/-! DEFINITION. The effect units: chorus and echo (42_chorus_echo.md), reverb (43_reverb.md), and the interface every unit has (R200 to
R202). A step answers the wet signal and the unit with its signal state moved on. -/

namespace Sys2Proof.Machine

variable {α : Type} [Field α] [LinearOrder α] [FloorRing α]

/-- R211: `tri01(u) = 1 - |2 * u - 1|`. -/
def tri01 (N : Num α) (u : α) : α := N.sub 1 (absQ (N.sub (N.mul 2 u) 1))

/-- R211: the LFO factor of a chorus tap. -/
def tapLfo (P : Params α) (lfoN : Nat) (t : Tap α) : α :=
  let N := P.num
  let u := N.frac (N.add (N.div (natQ lfoN) (natQ P.chLfoPeriod)) t.lfoPhase)
  N.add (N.sub 1 P.chLfoDepth) (N.mul P.chLfoDepth (tri01 N u))

/-- R210: what one tap adds to the wet signal. -/
def tapOutput (P : Params α) (x : Chorus α) (t : Tap α) : Stereo α :=
  let N := P.num
  let y := lineRead x.hist (ringIndex x.w t.delay P.chorusLen)
  let g := N.prod t.gain [per127 N x.depth, tapLfo P x.lfoN t]
  ⟨N.mul (N.mul y g) (N.sub 1 t.pan), N.mul (N.mul y g) t.pan⟩

/-- R210: the chorus: all taps are read, then the mono input is written, then the indices advance. -/
def Chorus.wet (P : Params α) (x : Chorus α) (s : Stereo α) : Stereo α × Chorus α :=
  let N := P.num
  (P.chTaps.foldl (fun acc t => acc.add N (tapOutput P x t)) Stereo.zero,
    { x with
      hist := lineWrite x.hist x.w (N.div (N.add s.l s.r) 2)
      w := (x.w + 1) % P.chorusLen
      lfoN := (x.lfoN + 1) % P.chLfoPeriod })

/-- R220: what echo tap `k` of gain `gain` adds to the wet signal. -/
def echoTap (P : Params α) (x : Echo α) (k : Nat) (gain : α) : Stereo α :=
  let N := P.num
  let i := ringIndex x.w ((k + 1) * P.echoBase) P.echoLen
  let g := N.div (N.mul gain (natQ x.depth.toNat)) 127
  ⟨N.mul (lineRead x.histL i) g, N.mul (lineRead x.histR i) g⟩

/-- R220: the echo taps from `k` on, accumulated. -/
def echoTaps (P : Params α) (x : Echo α) : Nat → List α → Stereo α → Stereo α
  | _, [], acc => acc
  | k, g :: rest, acc => echoTaps P x (k + 1) rest (acc.add P.num (echoTap P x k g))

/-- R220: the echo: the three taps read the dry history, then the input is written. -/
def Echo.wet (P : Params α) (x : Echo α) (s : Stereo α) : Stereo α × Echo α :=
  (echoTaps P x 0 P.echoGain Stereo.zero,
    { x with
      histL := lineWrite x.histL x.w s.l
      histR := lineWrite x.histR x.w s.r
      w := (x.w + 1) % P.echoLen })

/-- R236: one comb step. -/
def Comb.step (N : Num α) (len : Nat) (c : Comb α) (x fb damp : α) : α × Comb α :=
  let out := lineRead c.buf c.i
  let store := N.add (N.mul out (N.sub 1 damp)) (N.mul c.store damp)
  (out, ⟨lineWrite c.buf c.i (N.add x (N.mul store fb)), (c.i + 1) % len, store⟩)

/-- R237: one all-pass step. -/
def AllPass.step (P : Params α) (len : Nat) (a : AllPass α) (x : α) : α × AllPass α :=
  let N := P.num
  let bo := lineRead a.buf a.i
  (N.sub bo x, ⟨lineWrite a.buf a.i (N.add x (N.mul bo P.apFeedback)), (a.i + 1) % len⟩)

/-- R231: the combs of a bank, all fed `x`, their outputs accumulated in order. -/
def combBank (N : Num α) (x fb damp : α) : List Nat → List (Comb α) → α → α × List (Comb α)
  | len :: lens, c :: cs, acc =>
    let (o, c') := c.step N len x fb damp
    let (acc', cs') := combBank N x fb damp lens cs (N.add acc o)
    (acc', c' :: cs')
  | _, cs, acc => (acc, cs)

/-- R231: the all-passes of a bank in series. -/
def allPassChain (P : Params α) : List Nat → List (AllPass α) → α → α × List (AllPass α)
  | len :: lens, a :: as, x =>
    let (o, a') := a.step P len x
    let (x', as') := allPassChain P lens as o
    (x', a' :: as')
  | _, as, x => (x, as)

/-- R233: the pre-delay. -/
def Reverb.predelay (P : Params α) (v : Reverb α) (x0 : α) : α × Reverb α :=
  if P.revPredelay = 0 then (x0, v)
  else (lineRead v.pre v.pw, { v with pre := lineWrite v.pre v.pw x0, pw := (v.pw + 1) % P.revPredelay })

/-- R230, R231: the reverb: mono input, pre-delay, then for each side combs in parallel and all-passes in series. -/
def Reverb.wet (P : Params α) (v : Reverb α) (s : Stereo α) : Stereo α × Reverb α :=
  let N := P.num
  let (x, v1) := v.predelay P (N.mul (N.add s.l s.r) P.revGain)
  let (cl, combL) := combBank N x v1.fb v1.damp P.combLen v1.combL 0
  let (al, apL) := allPassChain P P.apLen v1.apL cl
  let (cr, combR) := combBank N x v1.fb v1.damp P.combLenR v1.combR 0
  let (ar, apR) := allPassChain P P.apLenR v1.apR cr
  (⟨N.mul al P.revWet, N.mul ar P.revWet⟩, { v1 with combL := combL, combR := combR, apL := apL, apR := apR })

/-- R201: the wet signal alone, or the input plus it. -/
def wetOrBoth (N : Num α) (wetOnly : Bool) (s wet : Stereo α) : Stereo α := if wetOnly then wet else s.add N wet

/-- R201: `process` of the chorus; the identity while disabled. -/
def Chorus.process (P : Params α) (x : Chorus α) (s : Stereo α) : Stereo α × Chorus α :=
  if x.depth = 0 then (s, x)
  else
    let (wet, x') := x.wet P s
    (wetOrBoth P.num P.chorusWetOnly s wet, x')

/-- R201: `process` of the echo; the identity while disabled. -/
def Echo.process (P : Params α) (x : Echo α) (s : Stereo α) : Stereo α × Echo α :=
  if x.depth = 0 then (s, x)
  else
    let (wet, x') := x.wet P s
    (wetOrBoth P.num P.echoWetOnly s wet, x')

/-- R201, R240: `process` of the reverb; the identity while disabled. -/
def Reverb.process (P : Params α) (v : Reverb α) (s : Stereo α) : Stereo α × Reverb α :=
  if v.depth = 0 then (s, v)
  else
    let (wet, v') := v.wet P s
    (wetOrBoth P.num P.reverbWetOnly s wet, v')

/-- The three buses that feed an owner's units, by unit (R280 `sendL`, `sendR`). -/
structure Buses (α : Type) where
  chorus : Stereo α
  echo : Stereo α
  reverb : Stereo α
  deriving DecidableEq, Repr

/-- R280 `unitEnabled`, R287: a unit that exists and is enabled. -/
def unitEnabled (present : Bool) (depth : BitVec 7) : Bool := present && depth != 0

/-- R287: the chorus of an owner, if enabled, is stepped and its output added to the dry bus. -/
def addChorus (P : Params α) (dry : Stereo α) (x : Chorus α) (s : Stereo α) : Stereo α × Chorus α :=
  if unitEnabled true x.depth then
    let (e, x') := x.process P s
    (dry.add P.num e, x')
  else (dry, x)

/-- R287: the echo of an owner, if present and enabled. -/
def addEcho (P : Params α) (dry : Stereo α) (x : Echo α) (s : Stereo α) : Stereo α × Echo α :=
  if unitEnabled P.hasEcho x.depth then
    let (e, x') := x.process P s
    (dry.add P.num e, x')
  else (dry, x)

/-- R287: the reverb of an owner, if enabled. -/
def addReverb (P : Params α) (dry : Stereo α) (v : Reverb α) (s : Stereo α) : Stereo α × Reverb α :=
  if unitEnabled true v.depth then
    let (e, v') := v.process P s
    (dry.add P.num e, v')
  else (dry, v)

/-- R280, R287, R291: the units of one owner in the order chorus, echo, reverb, each fed its own bus. -/
def FxUnits.run (P : Params α) (x : FxUnits α) (b : Buses α) (dry : Stereo α) : Stereo α × FxUnits α :=
  let (d1, chorus) := addChorus P dry x.chorus b.chorus
  let (d2, echo) := addEcho P d1 x.echo b.echo
  let (d3, reverb) := addReverb P d2 x.reverb b.reverb
  (d3, ⟨chorus, echo, reverb⟩)

/-- R202: the reverb's coefficients from a depth above 0. -/
def Reverb.coefficients (P : Params α) (v : Reverb α) : Reverb α :=
  if v.depth = 0 then v
  else
    let R := reverberance P.num v.depth.toNat
    { v with fb := P.revFeedback R, damp := P.revDamp R }

/-- R202: `start(depth)` of unit `u` of an owner: the depth is stored, the signal state cleared, the reverb's coefficients
computed. -/
def FxUnits.start (P : Params α) (x : FxUnits α) (u : Nat) (depth : BitVec 7) : FxUnits α :=
  match u with
  | 0 => { x with chorus := { x.chorus with depth := depth }.clear }
  | 1 => { x with echo := { x.echo with depth := depth }.clear }
  | 2 => { x with reverb := ({ x.reverb with depth := depth }.clear).coefficients P }
  | _ => x

end Sys2Proof.Machine
end

