-- ==== Sys2Proof/Machine/Frame.lean ====
section
/-! DEFINITION. The FRAME command (45_frame_mixer.md): voices to channel mixes, sends, effects, master volume, clipper, output,
meters. -/

namespace Sys2Proof.Machine

variable {α : Type} [Field α] [LinearOrder α] [FloorRing α]

/-- R282, R283: every live voice is advanced once, in slot order; a voice that reports `Silence` adds nothing and leaves, the voices
after it move down. Answers the channel sum, accumulated from `acc`, and the surviving voices. -/
def voicePass (P : Params α) (mem : WaveMem) (ch : Channel α) : List (Voice α) → Stereo α → Stereo α × List (Voice α)
  | [], acc => (acc, [])
  | v :: rest, acc =>
    match v.advance P mem ch with
    | none => voicePass P mem ch rest acc
    | some (o, v') =>
      let (m, survivors) := voicePass P mem ch rest (acc.add P.num o)
      (m, v' :: survivors)

/-- R284: the channel weighting. -/
def Channel.weight (P : Params α) (ch : Channel α) (m : Stereo α) : Stereo α :=
  let N := P.num
  let g := N.mul (per127 N ch.volume) (per127 N ch.expression)
  ⟨N.mul (N.mul m.l g) (P.panL ch.pan.toNat), N.mul (N.mul m.r g) (P.panR ch.pan.toNat)⟩

/-- R290: `min(floor(max(|cL|, |cR|)), 2^31 - 1)`. -/
def chanPeak (c : Stereo α) : Nat := min ⌊max (absQ c.l) (absQ c.r)⌋.toNat (2 ^ 31 - 1)

/-- R280, first lines of the channel loop: the channel after its voice pass and meter, and its weighted mix. -/
def Channel.mix (P : Params α) (mem : WaveMem) (ch : Channel α) : Stereo α × Channel α :=
  let (m, voices) := voicePass P mem ch ch.voices Stereo.zero
  let c := ch.weight P m
  (c, { ch with voices := voices, peak := max ch.peak (chanPeak c) })

/-- R286: the weighted mix times a send depth over 127. -/
def sendOf (N : Num α) (c : Stereo α) (depth : BitVec 7) : Stereo α :=
  ⟨N.div (N.mul c.l (natQ depth.toNat)) 127, N.div (N.mul c.r (natQ depth.toNat)) 127⟩

/-- R286: the send buses with a channel's sends added. -/
def Buses.addSends (N : Num α) (b : Buses α) (ch : Channel α) (c : Stereo α) : Buses α where
  chorus := b.chorus.add N (sendOf N c ch.sendChorus)
  echo := b.echo.add N (sendOf N c ch.sendEcho)
  reverb := b.reverb.add N (sendOf N c ch.sendReverb)

/-- R280: send buses at the start of a frame. -/
def Buses.zero : Buses α := ⟨Stereo.zero, Stereo.zero, Stereo.zero⟩

/-- R280 with SHARED: the channel loop; dry bus, send buses, channels. -/
def mixShared (P : Params α) (mem : WaveMem) : List (Channel α) → Stereo α → Buses α → Stereo α × Buses α × List (Channel α)
  | [], dry, b => (dry, b, [])
  | ch :: rest, dry, b =>
    let (c, ch') := ch.mix P mem
    let (dry', b', chs) := mixShared P mem rest (dry.add P.num c) (b.addSends P.num ch c)
    (dry', b', ch' :: chs)

/-- R280 with PRIVATE (R291): the channel loop; each channel's own units are fed its weighted mix. -/
def mixPrivate (P : Params α) (mem : WaveMem) : List (Channel α) → List (FxUnits α) → Stereo α → Stereo α × List (Channel α) × List (FxUnits α)
  | [], fx, dry => (dry, [], fx)
  | ch :: rest, [], dry =>
    let (c, ch') := ch.mix P mem
    let (dry', chs, fx') := mixPrivate P mem rest [] (dry.add P.num c)
    (dry', ch' :: chs, fx')
  | ch :: rest, x :: fx, dry =>
    let (c, ch') := ch.mix P mem
    let (d1, x') := x.run P ⟨c, c, c⟩ (dry.add P.num c)
    let (dry', chs, fx') := mixPrivate P mem rest fx d1
    (dry', ch' :: chs, x' :: fx')

/-- R287: the shared units, each fed its send bus. -/
def runShared (P : Params α) (fx : List (FxUnits α)) (b : Buses α) (dry : Stereo α) : Stereo α × List (FxUnits α) :=
  match fx with
  | [] => (dry, [])
  | x :: rest =>
    let (d, x') := x.run P b dry
    (d, x' :: rest)

/-- R280 up to the effects: the bus after the effects, the channels and the effect units. -/
def mixBlock (P : Params α) (s : State α) : Stereo α × List (Channel α) × List (FxUnits α) :=
  match P.topology with
  | .shared =>
    let (dry, b, chs) := mixShared P s.wmem s.channels Stereo.zero Buses.zero
    let (d, fx) := runShared P s.fx b dry
    (d, chs, fx)
  | .priv => mixPrivate P s.wmem s.channels s.fx Stereo.zero

/-- R288: the master volume. -/
def masterGain (N : Num α) (master : BitVec 7) (y : α) : α := N.div (N.mul y (natQ master.toNat)) 127

/-- R289: the clipper and the conversion to PCM. -/
def toPcm (y : α) : Int := trunc (clamp y (-32768) 32767)

/-- R289, R292: the frame a bus value is emitted as. -/
def frameOf (P : Params α) (master : BitVec 7) (dry : Stereo α) : Int × Int :=
  (toPcm (masterGain P.num master dry.l), toPcm (masterGain P.num master dry.r))

/-- R292, R293: the frame is emitted, and counters and output meters move on. -/
def State.emitFrame (s : State α) (o : Int × Int) : State α :=
  { s with
    out := emit s.out o.1 o.2
    frameCnt := wrapSucc s.frameCnt
    silenceCnt := if o.1 = 0 ∧ o.2 = 0 then satSucc s.silenceCnt else 0
    outPeakL := max s.outPeakL o.1.natAbs
    outPeakR := max s.outPeakR o.2.natAbs }

/-- FRAME (R280). -/
def frameOp (P : Params α) (s : State α) : State α :=
  let (dry, channels, fx) := mixBlock P s
  { s with channels := channels, fx := fx }.emitFrame (frameOf P s.master dry)

/-- The meaning of FRAME (R280). -/
def execFrame (s : State) : Host.Outcome State Fault Refusal := .next (frameOp Config.params s)

end Sys2Proof.Machine
end

