-- ==== Sys2Proof/Machine/System.lean ====
section
/-! DEFINITION. The system and loading commands NOP, REWIND, MCLR, WRG, WAVPTR, WAVDAT, WDESC (46_system_commands.md) and FXSTART
(42_chorus_echo.md R202). -/

namespace Sys2Proof.Machine

variable {α : Type} [Field α] [LinearOrder α] [FloorRing α]

/-- REWIND (R312, R65): channels and playback registers at their reset values, effect signal state cleared; WPTR, descriptors,
wave memory, effect depths and coefficients and the output stream kept. -/
def rewindOp (s : State α) : State α :=
  { s with
    master := 127
    frameCnt := 0
    silenceCnt := 0
    outPeakL := 0
    outPeakR := 0
    channels := s.channels.map (fun _ => Channel.reset)
    fx := s.fx.map FxUnits.clear }

/-- MCLR (R313): the peak meters cleared. -/
def clearMetersOp (s : State α) : State α :=
  { s with
    outPeakL := 0
    outPeakR := 0
    channels := s.channels.map (fun ch => { ch with peak := 0 }) }

/-- WRG idx, data (R314): MASTER is the one writable global register. -/
def writeGlobalOp (idx : BitVec 8) (data : Word) (s : State α) : State α :=
  if idx = 0 then { s with master := lowBits 7 data } else s

/-- FXSTART owner, u, depth (R202): the unit check, the echo check, the owner check (R346), then `start`. -/
def fxStartOp (P : Params α) (owner u : BitVec 8) (depth : BitVec 7) (s : State α) : State α :=
  if 2 < u.toNat then s
  else if u.toNat = 1 ∧ P.hasEcho = false then s
  else if P.topology = .priv ∧ P.nchan ≤ owner.toNat then s
  else s.onOwner (ownerIndex P owner.toNat) (fun x => x.start P u.toNat depth)

/-- WAVPTR addr (R315). -/
def wavePointerOp (addr : Word) (s : State α) : State α := { s with wptr := addr }

/-- WAVDAT L, R (R316): the write at WPTR, discarded beyond the memory, and the pointer advanced modulo 2^32. -/
def waveDataOp (P : Params α) (left right : BitVec 16) (s : State α) : State α :=
  { s with wmem := waveWrite P s.wmem s.wptr.toNat ⟨left, right⟩, wptr := s.wptr + 1 }

/-- WDESC d, field, data (R317); a no-op where there is no such descriptor or field (R112). -/
def writeDescriptorOp (P : Params α) (d field : BitVec 8) (data : Word) (s : State α) : State α :=
  if d.toNat < P.ndesc then s.onDescriptor d.toNat (fun x => (x.writeField field.toNat data).getD x) else s

/-- The meaning of NOP (R310). -/
def execNop (s : State) : Host.Outcome State Fault Refusal := .next s

/-- The meaning of REWIND (R312). -/
def execRewind (s : State) : Host.Outcome State Fault Refusal := .next (rewindOp s)

/-- The meaning of MCLR (R313). -/
def execMclr (s : State) : Host.Outcome State Fault Refusal := .next (clearMetersOp s)

/-- The meaning of WRG (R314). -/
def execWrg (idx : BitVec 8) (data : Word) (s : State) : Host.Outcome State Fault Refusal :=
  .next (writeGlobalOp idx data s)

/-- The meaning of FXSTART (R202). -/
def execFxstart (owner u : BitVec 8) (depth : BitVec 7) (s : State) : Host.Outcome State Fault Refusal :=
  .next (fxStartOp Config.params owner u depth s)

/-- The meaning of WAVPTR (R315). -/
def execWavptr (addr : Word) (s : State) : Host.Outcome State Fault Refusal := .next (wavePointerOp addr s)

/-- The meaning of WAVDAT (R316). -/
def execWavdat (left right : BitVec 16) (s : State) : Host.Outcome State Fault Refusal :=
  .next (waveDataOp Config.params left right s)

/-- The meaning of WDESC (R317). -/
def execWdesc (d field : BitVec 8) (data : Word) (s : State) : Host.Outcome State Fault Refusal :=
  .next (writeDescriptorOp Config.params d field data s)

end Sys2Proof.Machine
end

