-- ==== Sys2Proof/Syntax.lean ====
section
/-! DEFINITION. The thirteen commands of SSDSP-CMD-1 (30_encoding.md R100), one constructor per row of
spec/opcode_table.json, with the operand fields of rules R102 to R106 at the widths their bits give them. -/

namespace Sys2Proof

/-- A command. Operand names are those of the opcode map (30_encoding.md R115). -/
inductive Instr where
  /-- NOP (R310). -/
  | nop
  /-- FRAME (R280). -/
  | frame
  /-- REWIND (R312). -/
  | rewind
  /-- MCLR (R313). -/
  | mclr
  /-- NOTEON c, p, v (R250). -/
  | noteon (c : BitVec 8) (p v : BitVec 7)
  /-- NOTEOFF c, p, v (R255). -/
  | noteoff (c : BitVec 8) (p v : BitVec 7)
  /-- PBEND c, lsb, msb (R258). -/
  | pbend (c : BitVec 8) (lsb msb : BitVec 7)
  /-- WRCH c, idx, data (R260). -/
  | wrch (c idx : BitVec 8) (data : Word)
  /-- WRG idx, data (R314). -/
  | wrg (idx : BitVec 8) (data : Word)
  /-- FXSTART owner, u, depth (R202). -/
  | fxstart (owner u : BitVec 8) (depth : BitVec 7)
  /-- WAVPTR addr (R315). -/
  | wavptr (addr : Word)
  /-- WAVDAT L, R (R316). -/
  | wavdat (left right : BitVec 16)
  /-- WDESC d, field, data (R317). -/
  | wdesc (d field : BitVec 8) (data : Word)
  deriving DecidableEq, Repr

end Sys2Proof
end

