-- ==== Sys2Proof/Machine/Dispatch.lean ====
section
/-! DEFINITION. The meaning of every command (30_encoding.md R100), one arm per constructor. -/

namespace Sys2Proof.Machine

def exec (i : Instr) (s : State) : Host.Outcome State Fault Refusal :=
  match i with
  | .nop => Sys2Proof.Machine.execNop s
  | .frame => Sys2Proof.Machine.execFrame s
  | .rewind => Sys2Proof.Machine.execRewind s
  | .mclr => Sys2Proof.Machine.execMclr s
  | .noteon c p v => Sys2Proof.Machine.execNoteon c p v s
  | .noteoff c p v => Sys2Proof.Machine.execNoteoff c p v s
  | .pbend c lsb msb => Sys2Proof.Machine.execPbend c lsb msb s
  | .wrch c idx data => Sys2Proof.Machine.execWrch c idx data s
  | .wrg idx data => Sys2Proof.Machine.execWrg idx data s
  | .fxstart owner u depth => Sys2Proof.Machine.execFxstart owner u depth s
  | .wavptr addr => Sys2Proof.Machine.execWavptr addr s
  | .wavdat left right => Sys2Proof.Machine.execWavdat left right s
  | .wdesc d field data => Sys2Proof.Machine.execWdesc d field data s

end Sys2Proof.Machine
end

