-- ==== Sys2Proof/Decode.lean ====
section
/-! DEFINITION. From command bytes to commands and back (30_encoding.md R101 to R106, R115, R118; byte order 20_memory.md R75). The
decoder is total: a word of no row is reserved, with the reason by name. -/

namespace Sys2Proof

/-- The fields every format shares (R101). -/
structure Fields where
  op : BitVec 8
  a : BitVec 8
  b : BitVec 8
  z : BitVec 8
  data : Word
  deriving DecidableEq, Repr

/-- R101: the fields of a command word. -/
def fieldsOf (w : CmdWord) : Fields where
  op := w.extractLsb' 56 8
  a := w.extractLsb' 48 8
  b := w.extractLsb' 40 8
  z := w.extractLsb' 32 8
  data := w.extractLsb' 0 32

/-- R101: the command word of its fields, the opcode highest. -/
def wordOf (f : Fields) : CmdWord := f.op ++ (f.a ++ (f.b ++ (f.z ++ f.data)))

/-- Why a word is reserved (R118, condition X7 of R341). -/
inductive Reserved where
  /-- The opcode is none of R100. Not reported by the block: the word executes as NOP. -/
  | unknownOpcode
  /-- A must-be-zero field of a defined opcode is not zero. Not reported: the word executes as NOP. -/
  | nonZeroField
  deriving DecidableEq, Repr

/-- What a command word is: a command, or reserved (R115, R118). -/
inductive Decoded where
  | instr (i : Instr)
  | reserved (why : Reserved)
  deriving DecidableEq, Repr

/-- A command if its must-be-zero fields are zero, else reserved. -/
def guarded (ok : Bool) (i : Instr) : Decoded := if ok then .instr i else .reserved .nonZeroField

/-- R102, format Z: `a`, `b`, `z` and `data` are zero. -/
def Fields.zeroZ (f : Fields) : Bool := f.a == 0 && f.b == 0 && f.z == 0 && f.data == 0

/-- R103, format K: `b`, `z`, `data[7]` and `data[31:15]` are zero. -/
def Fields.zeroK (f : Fields) : Bool :=
  f.b == 0 && f.z == 0 && f.data.extractLsb' 7 1 == 0 && f.data.extractLsb' 15 17 == 0

/-- R103: the first 7-bit value `p`. -/
def Fields.low7 (f : Fields) : BitVec 7 := f.data.extractLsb' 0 7

/-- R103: the second 7-bit value `v`. -/
def Fields.high7 (f : Fields) : BitVec 7 := f.data.extractLsb' 8 7

/-- R104, format R: `z` is zero. -/
def Fields.zeroR (f : Fields) : Bool := f.z == 0

/-- R105, format X: `z` and `data[31:7]` are zero. -/
def Fields.zeroX (f : Fields) : Bool := f.z == 0 && f.data.extractLsb' 7 25 == 0

/-- R106, format W: `a`, `b` and `z` are zero. -/
def Fields.zeroW (f : Fields) : Bool := f.a == 0 && f.b == 0 && f.z == 0

/-- R115: the command of a word's fields. -/
def decodeFields (f : Fields) : Decoded :=
  if f.op = 0x00 then guarded f.zeroZ .nop
  else if f.op = 0x01 then guarded f.zeroZ .frame
  else if f.op = 0x02 then guarded f.zeroZ .rewind
  else if f.op = 0x03 then guarded f.zeroZ .mclr
  else if f.op = 0x10 then guarded f.zeroK (.noteon f.a f.low7 f.high7)
  else if f.op = 0x11 then guarded f.zeroK (.noteoff f.a f.low7 f.high7)
  else if f.op = 0x12 then guarded f.zeroK (.pbend f.a f.low7 f.high7)
  else if f.op = 0x20 then guarded f.zeroR (.wrch f.a f.b f.data)
  else if f.op = 0x21 then guarded (f.zeroR && f.a == 0) (.wrg f.b f.data)
  else if f.op = 0x30 then guarded f.zeroX (.fxstart f.a f.b f.low7)
  else if f.op = 0x40 then guarded f.zeroW (.wavptr f.data)
  else if f.op = 0x41 then guarded f.zeroW (.wavdat (f.data.extractLsb' 0 16) (f.data.extractLsb' 16 16))
  else if f.op = 0x42 then guarded f.zeroR (.wdesc f.a f.b f.data)
  else .reserved .unknownOpcode

/-- R115, R118: what a command word is. -/
def decodeWord (w : CmdWord) : Decoded := decodeFields (fieldsOf w)

/-- R75: the word of eight bytes, byte 0 in bits 7..0. -/
def wordOfBytes (b0 b1 b2 b3 b4 b5 b6 b7 : Byte) : CmdWord :=
  b7 ++ (b6 ++ (b5 ++ (b4 ++ (b3 ++ (b2 ++ (b1 ++ b0))))))

/-- R75: the eight bytes of a word, byte 0 first. -/
def bytesOfWord (w : CmdWord) : List Byte :=
  [w.extractLsb' 0 8, w.extractLsb' 8 8, w.extractLsb' 16 8, w.extractLsb' 24 8,
    w.extractLsb' 32 8, w.extractLsb' 40 8, w.extractLsb' 48 8, w.extractLsb' 56 8]

/-- R101: the first command of a byte sequence and the bytes after it; none where fewer than eight bytes are left, a partial word
the block does not execute (20_memory.md R76). -/
def decodeBytes : List Byte → Option (Decoded × List Byte)
  | b0 :: b1 :: b2 :: b3 :: b4 :: b5 :: b6 :: b7 :: rest => some (decodeWord (wordOfBytes b0 b1 b2 b3 b4 b5 b6 b7), rest)
  | _ => none

/-- The 32-bit data of format K: zeros, `v` in bits 14..8, zero, `p` in bits 6..0 (R103). -/
def dataK (p v : BitVec 7) : Word := (0 : BitVec 17) ++ (v ++ ((0 : BitVec 1) ++ p))

/-- The 32-bit data of format X: zeros, `depth` in bits 6..0 (R105). -/
def dataX (depth : BitVec 7) : Word := (0 : BitVec 25) ++ depth

/-- The 32-bit data of WAVDAT: the right sample high, the left sample low (R106, 20_memory.md R75). -/
def dataW (left right : BitVec 16) : Word := right ++ left

/-- R102 to R106: the fields of a command. -/
def encodeFields : Instr → Fields
  | .nop => ⟨0x00, 0, 0, 0, 0⟩
  | .frame => ⟨0x01, 0, 0, 0, 0⟩
  | .rewind => ⟨0x02, 0, 0, 0, 0⟩
  | .mclr => ⟨0x03, 0, 0, 0, 0⟩
  | .noteon c p v => ⟨0x10, c, 0, 0, dataK p v⟩
  | .noteoff c p v => ⟨0x11, c, 0, 0, dataK p v⟩
  | .pbend c lsb msb => ⟨0x12, c, 0, 0, dataK lsb msb⟩
  | .wrch c idx data => ⟨0x20, c, idx, 0, data⟩
  | .wrg idx data => ⟨0x21, 0, idx, 0, data⟩
  | .fxstart owner u depth => ⟨0x30, owner, u, 0, dataX depth⟩
  | .wavptr addr => ⟨0x40, 0, 0, 0, addr⟩
  | .wavdat left right => ⟨0x41, 0, 0, 0, dataW left right⟩
  | .wdesc d field data => ⟨0x42, d, field, 0, data⟩

/-- The command word of a command (R101 to R106). -/
def encode (i : Instr) : CmdWord := wordOf (encodeFields i)

/-- One row of the opcode map (R115). -/
structure OpcodeRow where
  mnemonic : String
  matchBits : CmdWord
  mask : CmdWord
  deriving DecidableEq, Repr

/-- The mnemonic of a command (R100). -/
def mnemonicOf : Instr → String
  | .nop => "NOP"
  | .frame => "FRAME"
  | .rewind => "REWIND"
  | .mclr => "MCLR"
  | .noteon _ _ _ => "NOTEON"
  | .noteoff _ _ _ => "NOTEOFF"
  | .pbend _ _ _ => "PBEND"
  | .wrch _ _ _ => "WRCH"
  | .wrg _ _ => "WRG"
  | .fxstart _ _ _ => "FXSTART"
  | .wavptr _ => "WAVPTR"
  | .wavdat _ _ => "WAVDAT"
  | .wdesc _ _ _ => "WDESC"

/-- The opcode map (R115), as the spec prints it. -/
def opcodeMap : List OpcodeRow :=
  [⟨"NOP", 0x0000000000000000, 0xFFFFFFFFFFFFFFFF⟩,
   ⟨"FRAME", 0x0100000000000000, 0xFFFFFFFFFFFFFFFF⟩,
   ⟨"REWIND", 0x0200000000000000, 0xFFFFFFFFFFFFFFFF⟩,
   ⟨"MCLR", 0x0300000000000000, 0xFFFFFFFFFFFFFFFF⟩,
   ⟨"NOTEON", 0x1000000000000000, 0xFF00FFFFFFFF8080⟩,
   ⟨"NOTEOFF", 0x1100000000000000, 0xFF00FFFFFFFF8080⟩,
   ⟨"PBEND", 0x1200000000000000, 0xFF00FFFFFFFF8080⟩,
   ⟨"WRCH", 0x2000000000000000, 0xFF0000FF00000000⟩,
   ⟨"WRG", 0x2100000000000000, 0xFFFF00FF00000000⟩,
   ⟨"FXSTART", 0x3000000000000000, 0xFF0000FFFFFFFF80⟩,
   ⟨"WAVPTR", 0x4000000000000000, 0xFFFFFFFF00000000⟩,
   ⟨"WAVDAT", 0x4100000000000000, 0xFFFFFFFF00000000⟩,
   ⟨"WDESC", 0x4200000000000000, 0xFF0000FF00000000⟩]

/-- R115: the word is the command of the row when its masked bits match. -/
abbrev OpcodeRow.hits (r : OpcodeRow) (w : CmdWord) : Prop := w &&& r.mask = r.matchBits

/-- What the decoder reads from an instruction whose `nbits` bits are `w`, bit 0 the lowest bit of the word: the word is laid out as
eight bytes, low byte first, and decoded; none where it is reserved. -/
def decodeTableWord (nbits w : Nat) : Option Instr :=
  match decodeBytes (bytesOfWord (BitVec.ofNat 64 (w % 2 ^ nbits))) with
  | some (.instr i, _) => some i
  | _ => none

end Sys2Proof
end

