-- ==== Sys2Proof/Machine/Fetch.lean ====
section
/-! DEFINITION. Taking the next command word from the command stream (20_memory.md R75, R76, R85; DESIGN CHOICE, log 4). -/

namespace Sys2Proof.Machine

/-- The state with the bytes of the next command taken off the stream. -/
def State.withStream (s : State) (rest : List Byte) : State := { s with stream := rest }

/-- What the front of the command stream holds: a decoded command word and the state with its eight bytes taken, or nothing, where
fewer than eight bytes are there (R76: a partial word is not executed). -/
def fetchCommand (s : State) : Option (Decoded × State) :=
  match decodeBytes s.stream with
  | some (d, rest) => some (d, s.withStream rest)
  | none => none

/-- The stream with the eight bytes of the word `w`, of `nbits` bits, put in front. -/
def streamWithWord (nbits w : Nat) (stream : List Byte) : List Byte :=
  bytesOfWord (BitVec.ofNat 64 (w % 2 ^ nbits)) ++ stream

end Sys2Proof.Machine
end

