-- ==== Sys2Proof/Machine/Step.lean ====
section
/-! DEFINITION. One step of the block: the next command word of the stream, executed whole (10_state.md R20, 20_memory.md R85). -/

namespace Sys2Proof.Machine

/-- One step: the next command word is taken off the stream and executed; a reserved word executes as NOP (30_encoding.md R118); with
no whole word there the block waits (70_reset_and_hazards.md R381, 20_memory.md R76). -/
def step (s : State) : Host.Outcome State Fault Refusal :=
  match fetchCommand s with
  | some (.instr i, s') => exec i s'
  | some (.reserved _, s') => .next s'
  | none => .next s

/-- The state with the command word of the instruction `w` of `nbits` bits at the front of the command stream, where the next step takes
its command (DESIGN CHOICE, log 4). -/
def State.withFetchWord (s : State) (nbits w : Nat) : State := { s with stream := streamWithWord nbits w s.stream }

end Sys2Proof.Machine
end

