-- ==== Sys2Proof/Machine/RealNum.lean ====
section
/-! DEFINITION. The spec's default NUM (00_scope.md R8): all reals, no rounding, the elementary functions themselves. Every operation of the
machine runs over it as over any other NUM; the running machine computes over the rationals because reals cannot be written out
(log 1). -/

namespace Sys2Proof

/-- The default NUM of R8: `NUM.V` is all reals, `NUM.rnd` the identity, the elementary functions are the true ones. -/
noncomputable def realNum : Num ℝ where
  V := fun _ => True
  rnd := fun x => x
  rnd_mem := fun _ => trivial
  piConst := Real.pi
  sin2piFn := fun x => Real.sin (2 * Real.pi * x)
  cos2piFn := fun x => Real.cos (2 * Real.pi * x)
  exp2Fn := fun x => (2 : ℝ) ^ x
  expFn := Real.exp
  lnFn := Real.log
  sqrtFn := Real.sqrt

/-- The spec's default block: the default parameters (R4 to R7) over the default NUM. -/
noncomputable def Config.realParams : Params ℝ := Config.defaults realNum

end Sys2Proof
end

