-- ==== Sys2Proof/Machine/Assembler.lean ====
section
/-! DEFINITION. The textual form of commands (30_encoding.md R120) and the pseudo-instructions (R121). Neither is seen by the block: both answer
commands. -/

namespace Sys2Proof.Machine

/-- The characters of a line before its comment (R120: "Text after `;` is a comment"). -/
def dropComment (line : List Char) : List Char := line.takeWhile (· ≠ ';')

/-- A text without the blanks at its ends. -/
def trimBlanks (t : List Char) : List Char :=
  ((t.dropWhile (fun ch => ch == ' ' || ch == '\t')).reverse.dropWhile (fun ch => ch == ' ' || ch == '\t')).reverse

/-- The parts of a text between commas. -/
def splitCommas : List Char → List (List Char)
  | [] => [[]]
  | ch :: rest =>
    if ch = ',' then [] :: splitCommas rest
    else
      match splitCommas rest with
      | [] => [[ch]]
      | part :: parts => (ch :: part) :: parts

/-- The value of a digit in base 10 or 16. -/
def digitValue (base : Nat) (ch : Char) : Option Nat :=
  let n := ch.toNat
  let d := if 48 ≤ n ∧ n ≤ 57 then n - 48 else if 65 ≤ n ∧ n ≤ 70 then n - 55 else if 97 ≤ n ∧ n ≤ 102 then n - 87 else base
  if d < base then some d else none

/-- The number a digit string stands for, `acc` being the part read so far. -/
def digitsValue (base : Nat) : List Char → Nat → Option Nat
  | [], acc => some acc
  | ch :: rest, acc =>
    match digitValue base ch with
    | some d => digitsValue base rest (acc * base + d)
    | none => none

/-- An unsigned number: decimal, or hexadecimal with `0x` (R120). -/
def naturalOf : List Char → Option Nat
  | [] => none
  | '0' :: 'x' :: [] => none
  | '0' :: 'x' :: ds => digitsValue 16 ds 0
  | ds => digitsValue 10 ds 0

/-- A signed number (R120: the operands of WAVDAT). -/
def integerOf : List Char → Option Int
  | '-' :: ds => (naturalOf ds).map fun n => -(n : Int)
  | ds => (naturalOf ds).map fun n => (n : Int)

/-- The names of the channel registers, in index order (10_state.md R40). -/
def channelRegNames : List String :=
  ["VARIANT", "BANK", "PROGRAM", "VOLUME", "PAN", "EXPRESSION", "SUSTAIN", "SOFT", "MODDEPTH", "MODSPEED", "BENDRANGE",
    "PORTA_EN", "PORTA_TIME", "CUTOFF", "RESONANCE", "SEND_REVERB", "SEND_CHORUS", "SEND_ECHO"]

/-- The name of the writable global register (10_state.md R50). -/
def globalRegNames : List String := ["MASTER"]

/-- The unit names, in unit order (R120). -/
def unitNames : List String := ["CHORUS", "ECHO", "REVERB"]

/-- The names of the descriptor fields, in field order (10_state.md R53). -/
def fieldNames : List String :=
  ["ID", "RANGE", "FLAGS", "BASEADDR", "LENGTH", "BASEFREQ", "LOOPSTART", "LOOPEND"]

/-- The position of a name in a list of names, from `k` on. -/
def namePosition (t : List Char) : List String → Nat → Option Nat
  | [], _ => none
  | n :: rest, k => if n.toList = t then some k else namePosition t rest (k + 1)

/-- A register, unit or field operand: a name or a number (R120). -/
def namedOf (names : List String) (t : List Char) : Option Nat :=
  match namePosition t names 0 with
  | some k => some k
  | none => naturalOf t

/-- A number that fits a field of `w` bits. -/
def fits (w : Nat) (n : Option Nat) : Option (BitVec w) :=
  match n with
  | some k => if k < 2 ^ w then some (BitVec.ofNat w k) else none
  | none => none

/-- A signed number that fits a 16-bit sample. -/
def fitsSample (n : Option Int) : Option (BitVec 16) :=
  match n with
  | some k => if -32768 ≤ k ∧ k ≤ 32767 then some (BitVec.ofInt 16 k) else none
  | none => none

/-- Three operands, each of which must be there. -/
def three {α β γ : Type} (f : α → β → γ → Instr) : Option α → Option β → Option γ → Option Instr
  | some a, some b, some c => some (f a b c)
  | _, _, _ => none

/-- Two operands, each of which must be there. -/
def two {α β : Type} (f : α → β → Instr) : Option α → Option β → Option Instr
  | some a, some b => some (f a b)
  | _, _ => none

/-- R120: the command of a mnemonic and its operands, in the operand order of the table; none where they do not fit. -/
def assembleOperands (mnemonic : List Char) (ops : List (List Char)) : Option Instr :=
  match ops with
  | [] =>
    if mnemonic = "NOP".toList then some .nop
    else if mnemonic = "FRAME".toList then some .frame
    else if mnemonic = "REWIND".toList then some .rewind
    else if mnemonic = "MCLR".toList then some .mclr
    else none
  | [x] => if mnemonic = "WAVPTR".toList then (fits 32 (naturalOf x)).map Instr.wavptr else none
  | [x, y] =>
    if mnemonic = "WRG".toList then two Instr.wrg (fits 8 (namedOf globalRegNames x)) (fits 32 (naturalOf y))
    else if mnemonic = "WAVDAT".toList then two Instr.wavdat (fitsSample (integerOf x)) (fitsSample (integerOf y))
    else none
  | [x, y, z] =>
    if mnemonic = "NOTEON".toList then three Instr.noteon (fits 8 (naturalOf x)) (fits 7 (naturalOf y)) (fits 7 (naturalOf z))
    else if mnemonic = "NOTEOFF".toList then
      three Instr.noteoff (fits 8 (naturalOf x)) (fits 7 (naturalOf y)) (fits 7 (naturalOf z))
    else if mnemonic = "PBEND".toList then three Instr.pbend (fits 8 (naturalOf x)) (fits 7 (naturalOf y)) (fits 7 (naturalOf z))
    else if mnemonic = "WRCH".toList then
      three Instr.wrch (fits 8 (naturalOf x)) (fits 8 (namedOf channelRegNames y)) (fits 32 (naturalOf z))
    else if mnemonic = "FXSTART".toList then
      three Instr.fxstart (fits 8 (naturalOf x)) (fits 8 (namedOf unitNames y)) (fits 7 (naturalOf z))
    else if mnemonic = "WDESC".toList then
      three Instr.wdesc (fits 8 (naturalOf x)) (fits 8 (namedOf fieldNames y)) (fits 32 (naturalOf z))
    else none
  | _ => none

/-- R120: the command a line of assembler text stands for: the mnemonic, a space, the operands separated by commas. -/
def assembleLine (line : List Char) : Option Instr :=
  let t := trimBlanks (dropComment line)
  let mnemonic := t.takeWhile (· ≠ ' ')
  let rest := trimBlanks (t.dropWhile (· ≠ ' '))
  assembleOperands mnemonic (if rest = [] then [] else (splitCommas rest).map trimBlanks)

/-- R121: the pseudo-instructions. Frequencies are in Hz and loop points in frames. -/
inductive Pseudo where
  | prepare (n : Nat)
  | mvol (v : BitVec 7)
  | pbend14 (c : BitVec 8) (bend : BitVec 14)
  | prog (c : BitVec 8) (variant bank program : Word)
  | wavload (addr : Word) (frames : List (BitVec 16 × BitVec 16))
  | desc (d : BitVec 8) (bank : BitVec 14) (program pfrom pto nom : BitVec 7) (flags base len : Word) (freq ls le : Rat)
  deriving DecidableEq, Repr

/-- `round(x)`, to the nearest integer, as a 32-bit word. -/
def roundWord (x : Rat) : Word := BitVec.ofInt 32 (x + 1 / 2).floor

/-- R121: the commands a pseudo-instruction expands to. -/
def Pseudo.expand : Pseudo → List Instr
  | .prepare n => List.replicate n .frame
  | .mvol v => [.wrg 0 (v.setWidth 32)]
  | .pbend14 c bend => [.pbend c (bend.extractLsb' 0 7) (bend.extractLsb' 7 7)]
  | .prog c variant bank program => [.wrch c 0x00 variant, .wrch c 0x01 bank, .wrch c 0x02 program]
  | .wavload addr frames => .wavptr addr :: frames.map fun f => .wavdat f.1 f.2
  | .desc d bank program pfrom pto nom flags base len freq ls le =>
    [.wdesc d 0 ((0 : BitVec 10) ++ (bank ++ ((0 : BitVec 1) ++ program))),
     .wdesc d 1 ((0 : BitVec 9) ++ (nom ++ ((0 : BitVec 1) ++ (pto ++ ((0 : BitVec 1) ++ pfrom))))),
     .wdesc d 3 base,
     .wdesc d 4 len,
     .wdesc d 5 (roundWord (freq * 65536)),
     .wdesc d 6 (roundWord (ls * 256)),
     .wdesc d 7 (roundWord (le * 256)),
     .wdesc d 2 flags]

/-- R76, R121, R294: the commands of the host's fill call for `byteCount` bytes: one FRAME for every four whole bytes. -/
def fillCall (byteCount : Nat) : List Instr := (Pseudo.prepare (byteCount / 4)).expand

end Sys2Proof.Machine
end

