-- ==== Sys2Proof/Machine/ReadPort.lean ====
section
/-! DEFINITION. The read port (20_memory.md R80): a reply is a function of the state between two commands, and a read changes nothing
(93_implementation_defined.md U5, DEDUCED, log 11). -/

namespace Sys2Proof.Machine

variable {α : Type} [Field α] [LinearOrder α] [FloorRing α]

/-- R80, space 0: the global register of 10_state.md R50 or R51. -/
def readGlobal (s : State α) (b : Nat) : Word :=
  match b with
  | 0x00 => s.master.setWidth 32
  | 0x10 => s.frameCnt
  | 0x11 => s.silenceCnt
  | 0x12 => BitVec.ofNat 32 s.outPeakL
  | 0x13 => BitVec.ofNat 32 s.outPeakR
  | 0x14 => s.wptr
  | _ => 0

/-- R80, space 1: the channel register or bookkeeping field. -/
def readChannel (P : Params α) (s : State α) (a b : Nat) : Word :=
  if a < P.nchan then
    match s.channel? a with
    | some ch => ch.readReg b
    | none => 0
  else 0

/-- R80, R221: the depth of unit `u` of an owner; an echo that is not there reads 0. -/
def FxUnits.depthOf (P : Params α) (x : FxUnits α) (u : Nat) : Word :=
  match u with
  | 0 => x.chorus.depth.setWidth 32
  | 1 => if P.hasEcho then x.echo.depth.setWidth 32 else 0
  | 2 => x.reverb.depth.setWidth 32
  | _ => 0

/-- R80, space 2: the depth of an effect unit; the owner is ignored when SHARED. -/
def readUnit (P : Params α) (s : State α) (a b : Nat) : Word :=
  match s.fx[ownerIndex P a]? with
  | some x => x.depthOf P b
  | none => 0

/-- R80, space 3: a descriptor field. -/
def readDescriptor (P : Params α) (s : State α) (a b : Nat) : Word :=
  if a < P.ndesc then
    match s.wd[a]? with
    | some x => x.readField b
    | none => 0
  else 0

/-- R80: the request word for space `space`, with its two indices; the low byte is ignored. -/
def request (space a b low : BitVec 8) : Word := space ++ (a ++ (b ++ low))

/-- R80: the reply to a request of a block built with `P`. -/
def readPortOf (P : Params α) (s : State α) (rq : Word) : Word :=
  let a := (rq.extractLsb' 16 8).toNat
  let b := (rq.extractLsb' 8 8).toNat
  match (rq.extractLsb' 24 8).toNat with
  | 0 => readGlobal s b
  | 1 => readChannel P s a b
  | 2 => readUnit P s a b
  | 3 => readDescriptor P s a b
  | _ => 0

/-- R80: the reply of the running machine to a read request. -/
def readPort (s : State) (rq : Word) : Word := readPortOf Config.params s rq

/-- R80, U5: a read request as a transition of its own that may stand between any two commands: the state after it and the reply. -/
def readTransition (s : State) (rq : Word) : State × Word := (s, readPort s rq)

end Sys2Proof.Machine
end

