-- ==== Sys2Proof/WellFormed.lean ====
section
/-! DEFINITION. Two well-formedness checks. Of a command: every index it carries names something that exists
(30_encoding.md R110 "legal if", R112); a command that fails the check decodes all the same and executes as NOP. Of a
parameter record: every value lies in its stated range (93_implementation_defined.md U2). -/

namespace Sys2Proof

variable {α : Type} [Field α] [LinearOrder α] [FloorRing α]

/-- R110, R112: the channel exists. -/
def Params.hasChannel (P : Params α) (c : BitVec 8) : Bool := decide (c.toNat < P.nchan)

/-- R260: the index is one of the writable channel registers 0x00..0x11. -/
def writableChannelIndex (idx : BitVec 8) : Bool := decide (idx.toNat ≤ 0x11)

/-- R57, R202: effect unit `u` exists. -/
def Params.hasUnit (P : Params α) (u : BitVec 8) : Bool :=
  decide (u.toNat ≤ 2) && (decide (u.toNat ≠ 1) || P.hasEcho)

/-- R105, R202: the owner exists; the field is ignored when SHARED. -/
def Params.hasOwner (P : Params α) (owner : BitVec 8) : Bool :=
  match P.topology with
  | .shared => true
  | .priv => decide (owner.toNat < P.nchan)

/-- R112: every index of the command names something that exists in a block built with `P`. -/
def Instr.wellFormed (P : Params α) : Instr → Bool
  | .nop => true
  | .frame => true
  | .rewind => true
  | .mclr => true
  | .noteon c _ _ => P.hasChannel c
  | .noteoff c _ _ => P.hasChannel c
  | .pbend c _ _ => P.hasChannel c
  | .wrch c idx _ => P.hasChannel c && writableChannelIndex idx
  | .wrg idx _ => decide (idx = 0)
  | .fxstart owner u _ => P.hasUnit u && P.hasOwner owner
  | .wavptr _ => true
  | .wavdat _ _ => true
  | .wdesc d field _ => decide (d.toNat < P.ndesc) && decide (field.toNat ≤ 7)

/-- U2: sizes and counts. -/
def Params.checkSizes (P : Params α) : Bool :=
  decide (0 < P.fs) && decide (1 ≤ P.nchan) && decide (P.nchan ≤ 256) && decide (1 ≤ P.maxPoly)
    && decide (P.wmemFrames ≤ 2 ^ 24) && decide (1 ≤ P.ndesc) && decide (P.ndesc ≤ 256)

/-- U2: the breakpoint abscissas increase, and the gains lie in [0, 1]. -/
def breakpointsRise : List (α × α) → Bool
  | [] => true
  | [a] => decide (0 ≤ a.2 ∧ a.2 ≤ 1)
  | a :: b :: rest => decide (0 ≤ a.2 ∧ a.2 ≤ 1 ∧ a.1 < b.1) && breakpointsRise (b :: rest)

/-- U2: the Piano parameters. -/
def Params.checkPiano (P : Params α) : Bool :=
  decide (P.pianoPartials.length = 11) && decide (0 < P.pianoNorm)
    && (List.range 128).all (fun p => decide (1 ≤ P.pianoDur p))
    && decide (2 ≤ P.pianoEnv.length) && decide ((P.pianoEnv.head?.map (·.1)) = some 0)
    && decide ((P.pianoEnv.getLast?.map (·.1)) = some 1) && breakpointsRise P.pianoEnv

/-- U2: the waveform parameters of Square and Triangle, the bandwidth floor and the vibrato depth. -/
def Params.checkVoice (P : Params α) : Bool :=
  decide (1 < P.sqSlope) && decide (0 < P.triSkew ∧ P.triSkew < 1) && decide (0 < P.bwMin)
    && (List.range 128).all (fun d => decide (0 ≤ P.vibDepth d ∧ 0 ≤ P.vibRateHz d))

/-- U2: the chorus parameters. -/
def Params.checkChorus (P : Params α) : Bool :=
  decide (1 ≤ P.chTaps.length) && decide (P.chTaps.length ≤ 5) && P.chTaps.all (fun t => decide (1 ≤ t.delay))
    && P.chTaps.all (fun t => decide (0 ≤ t.pan ∧ t.pan ≤ 1)) && decide (1 ≤ P.chLfoPeriod)
    && decide (0 ≤ P.chLfoDepth ∧ P.chLfoDepth ≤ 1)

/-- U2: the echo parameters. -/
def Params.checkEcho (P : Params α) : Bool := decide (1 ≤ P.echoBase) && decide (P.echoGain.length = 3)

/-- U2, R239: the reverb parameters; the feedback and damping laws are checked at the reverberances FXSTART computes from the depths 1
to 127 (R202), rounded as NUM rounds them; `Params.InRange` asks for the whole of [0, 100]. -/
def Params.checkReverb (P : Params α) : Bool :=
  decide (P.combLen.length = 8) && decide (P.apLen.length = 4) && P.combLen.all (fun l => decide (1 ≤ l))
    && P.apLen.all (fun l => decide (1 ≤ l)) && decide (-1 < P.apFeedback ∧ P.apFeedback < 1)
    && (List.range 128).all (fun d =>
        let R := Machine.reverberance P.num d
        d == 0 || decide (0 ≤ P.revFeedback R ∧ P.revFeedback R < 1 ∧ 0 ≤ P.revDamp R ∧ P.revDamp R < 1))

/-- U2: the pan law. -/
def Params.checkPan (P : Params α) : Bool :=
  (List.range 128).all (fun p => decide (0 ≤ P.panL p ∧ P.panL p ≤ 1 ∧ 0 ≤ P.panR p ∧ P.panR p ≤ 1))

/-- U2 as far as a Boolean can check it: every parameter, and every law at the arguments a command can give it. Statements that need
parameters in range take this weaker check, and so hold of every record that is in range (DEDUCED, log 3). -/
def Params.wellFormed (P : Params α) : Bool :=
  P.checkSizes && P.checkPiano && P.checkVoice && P.checkChorus && P.checkEcho && P.checkReverb && P.checkPan

/-- U2, R239: the parameter record is in range, the precondition the rules are written for: the check, and the feedback and damping laws
in [0, 1) at every reverberance in [0, 100]. -/
structure Params.InRange (P : Params α) : Prop where
  checked : P.wellFormed = true
  feedback : ∀ R, 0 ≤ R → R ≤ 100 → 0 ≤ P.revFeedback R ∧ P.revFeedback R < 1
  damp : ∀ R, 0 ≤ R → R ≤ 100 → 0 ≤ P.revDamp R ∧ P.revDamp R < 1

end Sys2Proof
end

