-- ==== Sys2Proof/Safety.lean ====
section
/-! DEFINITION. The terms claims are stated in: a command completes, a run of commands, and the invariant of the state (the ranges
10_state.md states for its fields, the voice-slot prefix and the sustain latch). -/

namespace Sys2Proof.Machine

variable {α : Type} [Field α] [LinearOrder α] [FloorRing α]

/-- The command has a next state (60_exceptions.md R340). -/
def Completes (i : Instr) (s : State) : Prop := ∃ t, exec i s = .next t

/-- The fold of the per-command meaning over a list of commands (20_memory.md R85). -/
def runCommands : List Instr → State → Host.Outcome State Fault Refusal
  | [], s => .next s
  | i :: rest, s =>
    match exec i s with
    | .next t => runCommands rest t
    | .fault r => .fault r
    | .refused r => .refused r

/-- R5: the largest vibrato depth a register value gives. -/
def vibBound (P : Params α) : α := ((List.range 128).map P.vibDepth).foldl max 0

/-- R181, R187, R24: the ranges of a voice's filter coefficients: `0 < lpA <= 1`, a stable resonator with complex poles. -/
structure FilterInv (f : VoiceFilter α) : Prop where
  lpA_pos : 0 < f.lpA
  lpA_le : f.lpA ≤ 1
  bpC_pos : 0 < f.bpC
  bpC_lt : f.bpC < 1
  poles : f.bpB * f.bpB < 4 * f.bpC

/-- R24, R148: a Sampled voice's position, base frequency and loop points. -/
structure SampleInv (p : SamplePlay α) : Prop where
  pos_nonneg : 0 ≤ p.pos
  freq_pos : 0 < p.wFreq
  loopStart_nonneg : 0 ≤ p.wLs
  loopEnd_nonneg : 0 ≤ p.wLe

/-- R24: the ranges of the fields only one variant has. -/
def ToneInv : Tone α → Prop
  | .piano => True
  | .square f => FilterInv f
  | .triangle f => FilterInv f
  | .sampled p => SampleInv p

/-- R23, R152, R153, R154: the ranges of a live voice's fields. -/
structure VoiceInv (P : Params α) (v : Voice α) : Prop where
  tone : ToneInv v.tone
  vel : v.vel ≠ 0
  bend_low : -127 ≤ v.bend
  bend_high : v.bend ≤ 127
  vib_low : -vibBound P ≤ v.vibM
  vib_high : v.vibM ≤ vibBound P
  porta_off : v.portaOn = false → v.portaOff = 0
  porta_sign : v.portaOn = true → 0 < v.portaOff * v.portaStep
  porta_low : -127 ≤ v.portaOff
  porta_high : v.portaOff ≤ 127
  phase_nonneg : 0 ≤ v.phase
  phase_lt : v.phase < 1
  age : v.age ≤ 2 ^ 32 - 1
  latch : v.relOnce = v.rel
  budget : v.relLeft ≤ v.relTotal

/-- R22, R44, R290: a channel's voice count, meter and last key. -/
structure ChannelInv (P : Params α) (ch : Channel α) : Prop where
  cap : ch.nv ≤ P.maxPoly
  voices : ∀ v ∈ ch.voices, VoiceInv P v
  peak : ch.peak ≤ 2 ^ 31 - 1
  lastPitch : ch.lastPitch = none → ch.voices = []

/-- R61: the combs of a bank against their lengths. -/
def combsOk : List Nat → List (Comb α) → Prop
  | [], [] => True
  | len :: lens, c :: cs => lineWf len c.buf = true ∧ c.i < len ∧ combsOk lens cs
  | _, _ => False

/-- R61: the all-passes of a bank against their lengths. -/
def allPassesOk : List Nat → List (AllPass α) → Prop
  | [], [] => True
  | len :: lens, a :: as => lineWf len a.buf = true ∧ a.i < len ∧ allPassesOk lens as
  | _, _ => False

/-- R57 to R61, R239: the shape of an owner's effect units. -/
structure FxInv (P : Params α) (x : FxUnits α) : Prop where
  chorus_hist : lineWf P.chorusLen x.chorus.hist = true
  chorus_w : x.chorus.w < P.chorusLen
  chorus_lfo : x.chorus.lfoN < P.chLfoPeriod
  echo_histL : lineWf P.echoLen x.echo.histL = true
  echo_histR : lineWf P.echoLen x.echo.histR = true
  echo_w : x.echo.w < P.echoLen
  echo_absent : P.hasEcho = false → x.echo = Echo.reset
  fb_nonneg : 0 ≤ x.reverb.fb
  fb_lt : x.reverb.fb < 1
  damp_nonneg : 0 ≤ x.reverb.damp
  damp_lt : x.reverb.damp < 1
  pre : lineWf P.revPredelay x.reverb.pre = true
  pw : x.reverb.pw < max 1 P.revPredelay
  combL : combsOk P.combLen x.reverb.combL
  combR : combsOk P.combLenR x.reverb.combR
  apL : allPassesOk P.apLen x.reverb.apL
  apR : allPassesOk P.apLenR x.reverb.apR

/-- The invariant of the state of a block built with `P`: sizes (R20, R53, R57), ranges (R40 to R61), the canonical form of wave
memory, and an output stream of whole frames (R74, R78). -/
structure StateInv (P : Params α) (s : State α) : Prop where
  nchan : s.channels.length = P.nchan
  channels : ∀ ch ∈ s.channels, ChannelInv P ch
  ndesc : s.wd.length = P.ndesc
  wmem : Memory.wf P s.wmem = true
  owners : s.fx.length = P.owners
  fx : ∀ x ∈ s.fx, FxInv P x
  peakL : s.outPeakL ≤ 32768
  peakR : s.outPeakR ≤ 32768
  frames : s.out.length % 4 = 0

/-- The invariant of the running machine. -/
def State.Inv (s : State) : Prop := StateInv Config.params s

/-- The state a command leaves in a block built with `P`; the running machine is the case `P = Config.params`
(00_scope.md section 4: a model takes the parameter record as an argument). -/
def commandOp (P : Params α) (i : Instr) (s : State α) : State α :=
  match i with
  | .nop => s
  | .frame => frameOp P s
  | .rewind => rewindOp s
  | .mclr => clearMetersOp s
  | .noteon c p v => noteOnOp P c p v s
  | .noteoff c p v => noteOffOp P c p v s
  | .pbend c lsb msb => pitchBendOp P c lsb msb s
  | .wrch c idx data => writeChannelOp P c idx data s
  | .wrg idx data => writeGlobalOp idx data s
  | .fxstart owner u depth => fxStartOp P owner u depth s
  | .wavptr addr => wavePointerOp addr s
  | .wavdat left right => waveDataOp P left right s
  | .wdesc d field data => writeDescriptorOp P d field data s

/-- The voice after `n` frames of its channel, none from the frame on at which it reports `Silence` (40_voice.md R131). -/
def Voice.afterFrames (P : Params α) (mem : WaveMem) (ch : Channel α) : Nat → Voice α → Option (Voice α)
  | 0, v => some v
  | n + 1, v =>
    match v.advance P mem ch with
    | none => none
    | some (_, v') => Voice.afterFrames P mem ch n v'

/-- What `FXSTART` configures in an owner's units (R58, R61): the three depths, `fb` and `damp`. -/
def FxUnits.config (x : FxUnits α) : BitVec 7 × BitVec 7 × BitVec 7 × α × α :=
  (x.chorus.depth, x.echo.depth, x.reverb.depth, x.reverb.fb, x.reverb.damp)

/-- The channel's registers 0x00 to 0x11 as the read port shows them (R40). -/
def Channel.registers (ch : Channel α) : List Word := (List.range 0x12).map ch.readReg

/-- R40: the width of channel register `idx`. -/
def channelRegisterBits : List Nat := [2, 14, 7, 7, 7, 7, 1, 1, 7, 7, 7, 1, 7, 7, 7, 7, 7, 7]

/-- R53: the bits of `data` that descriptor field `field` keeps. -/
def descriptorFieldMasks : List Word :=
  [0x003FFF7F, 0x007F7F7F, 0x00000007, 0xFFFFFFFF, 0xFFFFFFFF, 0xFFFFFFFF, 0xFFFFFFFF, 0xFFFFFFFF]

/-- R74: the bytes `lo`, `hi` are the sample `i`, low byte first, in 16-bit two's complement. -/
abbrev IsSample (lo hi : Byte) (i : Int) : Prop := (lo.toNat : Int) + 256 * (hi.toNat : Int) = i % 65536

/-- The input `d` calls before the next one, 0 where there was none (20_memory.md R92). -/
def inputAgo (xs : List α) (d : Nat) : α := if d ≤ xs.length then xs.getD (xs.length - d) 0 else 0

/-- The chorus after a sequence of inputs (42_chorus_echo.md R210). -/
def Chorus.fed (P : Params α) (x : Chorus α) (ins : List (Stereo α)) : Chorus α := ins.foldl (fun x s => (x.wet P s).2) x

/-- The echo after a sequence of inputs (R220). -/
def Echo.fed (P : Params α) (x : Echo α) (ins : List (Stereo α)) : Echo α := ins.foldl (fun x s => (x.wet P s).2) x

/-- The pre-delay after a sequence of inputs (43_reverb.md R233). -/
def Reverb.predelayFed (P : Params α) (v : Reverb α) (xs : List α) : Reverb α := xs.foldl (fun v x => (v.predelay P x).2) v

/-- The outputs of a comb over a sequence of inputs (43_reverb.md R236). -/
def combOutputs (N : Num α) (len : Nat) (fb damp : α) : Comb α → List α → List α
  | _, [] => []
  | c, x :: xs => (c.step N len x fb damp).1 :: combOutputs N len fb damp (c.step N len x fb damp).2 xs

/-- The outputs of a low-pass over a sequence of inputs, from previous output `y1` (41_filters.md R180). -/
def lpOutputs (N : Num α) (a : α) : α → List α → List α
  | _, [] => []
  | y1, x :: xs => lpStep N a y1 x :: lpOutputs N a (lpStep N a y1 x) xs

/-- The outputs of a high-pass over a sequence of inputs (R182). -/
def hpOutputs (N : Num α) (a : α) : HighPass α → List α → List α
  | _, [] => []
  | h, x :: xs => (hpStep N a h x).1 :: hpOutputs N a (hpStep N a h x).2 xs

/-- The outputs of a resonator over a sequence of inputs, from previous outputs `y1`, `y2` (R184). -/
def bpOutputs (N : Num α) (k : BandCoef α) : α → α → List α → List α
  | _, _, [] => []
  | y1, y2, x :: xs => bpStep N k y1 y2 x :: bpOutputs N k (bpStep N k y1 y2 x) y1 xs

/-- R115, column "free fields": the operands of a command are these bits of its word. -/
def FreeFields (w : CmdWord) : Instr → Prop
  | .nop => True
  | .frame => True
  | .rewind => True
  | .mclr => True
  | .noteon c p v => c = w.extractLsb' 48 8 ∧ v = w.extractLsb' 8 7 ∧ p = w.extractLsb' 0 7
  | .noteoff c p v => c = w.extractLsb' 48 8 ∧ v = w.extractLsb' 8 7 ∧ p = w.extractLsb' 0 7
  | .pbend c lsb msb => c = w.extractLsb' 48 8 ∧ msb = w.extractLsb' 8 7 ∧ lsb = w.extractLsb' 0 7
  | .wrch c idx data => c = w.extractLsb' 48 8 ∧ idx = w.extractLsb' 40 8 ∧ data = w.extractLsb' 0 32
  | .wrg idx data => idx = w.extractLsb' 40 8 ∧ data = w.extractLsb' 0 32
  | .fxstart owner u depth => owner = w.extractLsb' 48 8 ∧ u = w.extractLsb' 40 8 ∧ depth = w.extractLsb' 0 7
  | .wavptr addr => addr = w.extractLsb' 0 32
  | .wavdat left right => right = w.extractLsb' 16 16 ∧ left = w.extractLsb' 0 16
  | .wdesc d field data => d = w.extractLsb' 48 8 ∧ field = w.extractLsb' 40 8 ∧ data = w.extractLsb' 0 32

/-- The opcodes of 30_encoding.md R100. -/
def definedOpcodes : List (BitVec 8) :=
  [0x00, 0x01, 0x02, 0x03, 0x10, 0x11, 0x12, 0x20, 0x21, 0x30, 0x40, 0x41, 0x42]

/-- 44_channel_commands.md R252: the descriptor is one the search takes for key `p`. -/
abbrev DescriptorMatches (ch : Channel α) (p : BitVec 7) (x : Descriptor) : Prop :=
  x.valid = 1 ∧ 0 < x.baseFreq.toNat ∧ x.bank = ch.bank ∧ x.program = ch.program
    ∧ x.pitchFrom.toNat ≤ p.toNat ∧ p.toNat ≤ x.pitchTo.toNat

/-- R254 with the default PORTA_SAMPLES: whether a new voice glides from key `q`, the channel's last. -/
abbrev Glides (ch : Channel α) (p q : BitVec 7) : Prop :=
  ch.portaEn = 1 ∧ ch.lastPitch = some q ∧ q ≠ p ∧ 0 < ch.portaTime.toNat

/-- R254: the glide fields of a new voice of key `p`. -/
def GlideFields (ch : Channel α) (p : BitVec 7) (off step : α) (on : Bool) : Prop :=
  (∀ q, Glides ch p q → off = (q.toNat : α) - p.toNat ∧ step = off / (441 * ch.portaTime.toNat : Nat) ∧ on = true)
    ∧ ((∀ q, ¬ Glides ch p q) → off = 0 ∧ step = 0 ∧ on = false)

/-- R251: the voice a NOTEON of key `p` and velocity `v` creates, with the tone and glide fields given. -/
def freshVoice (ch : Channel α) (p v : BitVec 7) (tone : Tone α) (off step : α) (on : Bool) : Voice α where
  tone := tone
  key := p
  vel := v
  bend := 0
  vibM := 0
  vibDir := .up
  portaOff := off
  portaStep := step
  portaOn := on
  phase := 0
  age := 0
  rel := false
  relTotal := 0
  relLeft := 0
  sus := ch.sustain == 1
  relOnce := false
  soft := ch.soft == 1

/-- The voice a NOTEOFF of key `p` looks for (R255). -/
abbrev Holds (p : BitVec 7) (t : Voice α) : Prop := t.key = p ∧ t.rel = false

/-- The events of the sustain table (40_voice.md R153). -/
inductive PedalEvent where
  | noteOff | pedalDown | pedalUp
  deriving DecidableEq, Repr

/-- R153: the sustain table, on `(rel, sus, relOnce)`; none for a combination the table does not list. -/
def sustainTable : PedalEvent → Bool × Bool × Bool → Option (Bool × Bool × Bool)
  | .noteOff, (false, false, false) => some (true, false, true)
  | .pedalDown, (false, false, false) => some (false, true, false)
  | .pedalUp, (false, false, false) => some (false, false, false)
  | .noteOff, (false, true, false) => some (true, true, true)
  | .pedalDown, (false, true, false) => some (false, true, false)
  | .pedalUp, (false, true, false) => some (false, false, false)
  | .noteOff, (true, true, true) => some (true, true, true)
  | .pedalDown, (true, true, true) => some (true, true, true)
  | .pedalUp, (true, true, true) => some (true, false, true)
  | .noteOff, (true, false, true) => some (true, false, true)
  | .pedalDown, (true, false, true) => some (true, false, true)
  | .pedalUp, (true, false, true) => some (true, false, true)
  | _, _ => none

/-- The command of a table event on channel `c`, key `p`; `vel` is the note-off velocity, `data` the register value with its
lowest bit set by the event (R255, R262). -/
def PedalEvent.command (c : BitVec 8) (p vel : BitVec 7) (data : Word) : PedalEvent → Instr
  | .noteOff => .noteoff c p vel
  | .pedalDown => .wrch c 0x06 (data ||| 1)
  | .pedalUp => .wrch c 0x06 (data &&& 0xFFFFFFFE)

/-- The latch state of a voice (R153). -/
def Voice.latch (v : Voice α) : Bool × Bool × Bool := (v.rel, v.sus, v.relOnce)

/-- The outputs of a channel's live voices in a frame, lowest slot first (45_frame_mixer.md R282). -/
def Channel.outputs (P : Params α) (mem : WaveMem) (ch : Channel α) : List (Stereo α) :=
  ch.voices.filterMap (fun v => (v.advance P mem ch).map (·.1))

/-- The channel's live voices after a frame (R282, R283). -/
def Channel.survivors (P : Params α) (mem : WaveMem) (ch : Channel α) : List (Voice α) :=
  ch.voices.filterMap (fun v => (v.advance P mem ch).map (·.2))

/-- R284 in exact arithmetic: the weighted mix of a channel. -/
def Channel.weightedMix (P : Params α) (mem : WaveMem) (ch : Channel α) : Stereo α :=
  let outs := ch.outputs P mem
  let g : α := ((ch.volume.toNat : α) / 127) * ((ch.expression.toNat : α) / 127)
  ⟨(outs.map (·.l)).sum * g * P.panL ch.pan.toNat, (outs.map (·.r)).sum * g * P.panR ch.pan.toNat⟩

/-- The sum of stereo values, side by side. -/
def stereoSum (xs : List (Stereo α)) : Stereo α := ⟨(xs.map (·.l)).sum, (xs.map (·.r)).sum⟩

/-- R286 in exact arithmetic: the send bus of the unit that channel register `depth` feeds. -/
def State.sendBus (P : Params α) (s : State α) (depth : Channel α → BitVec 7) : Stereo α :=
  stereoSum (s.channels.map fun ch =>
    ⟨(ch.weightedMix P s.wmem).l * ((depth ch).toNat : α) / 127, (ch.weightedMix P s.wmem).r * ((depth ch).toNat : α) / 127⟩)

/-- R287: what a unit adds to the dry bus, given the answer of its `process`: nothing while it is absent or disabled. -/
def unitReturn (present : Bool) (depth : BitVec 7) (answer : Stereo α) : Stereo α :=
  if present = true ∧ depth ≠ 0 then answer else ⟨0, 0⟩

/-- R287, R291: an owner's units after a frame that feeds them `b`; an absent echo is not stepped. -/
def FxUnits.fedBy (P : Params α) (x : FxUnits α) (b : Buses α) : FxUnits α where
  chorus := (x.chorus.process P b.chorus).2
  echo := if P.hasEcho then (x.echo.process P b.echo).2 else x.echo
  reverb := (x.reverb.process P b.reverb).2

/-- R287, R291: what an owner's units, fed `b`, add to the dry bus. -/
def FxUnits.returns (P : Params α) (x : FxUnits α) (b : Buses α) : List (Stereo α) :=
  [unitReturn true x.chorus.depth (x.chorus.process P b.chorus).1, unitReturn P.hasEcho x.echo.depth (x.echo.process P b.echo).1,
    unitReturn true x.reverb.depth (x.reverb.process P b.reverb).1]

/-- R286 in exact arithmetic: the send buses of a SHARED block. -/
def State.sends (P : Params α) (s : State α) : Buses α :=
  ⟨s.sendBus P (·.sendChorus), s.sendBus P (·.sendEcho), s.sendBus P (·.sendReverb)⟩

/-- R291: what feeds a channel's own units in a PRIVATE block: its weighted mix, whatever its send registers hold. -/
def Channel.feed (P : Params α) (mem : WaveMem) (ch : Channel α) : Buses α :=
  ⟨ch.weightedMix P mem, ch.weightedMix P mem, ch.weightedMix P mem⟩

/-- R287 to R289, R292: the frame emitted for the bus after the effects, in exact arithmetic. -/
def pcmFrame (master : BitVec 7) (bus : Stereo α) : List Byte :=
  frameBytes (toPcm (bus.l * master.toNat / 127)) (toPcm (bus.r * master.toNat / 127))

/-- R135 in exact arithmetic: the release gain, for a voice of any variant. -/
def Voice.fade (v : Voice α) : α :=
  if v.rel = false ∨ v.relLeft = v.relTotal then 1 else (v.relLeft : α) / v.relTotal

/-- R135, R136 in exact arithmetic: the velocity, release and soft gains of a voice. -/
def Voice.level (v : Voice α) : α := (v.vel.toNat : α) / 127 * v.fade * (if v.soft then 1 / 2 else 1)

/-- R144 in exact arithmetic: the band-pass output of a voice for the input `x`. -/
def VoiceFilter.resonance (f : VoiceFilter α) (x : α) : α := f.bpA * x - f.bpB * f.bpY1 - f.bpC * f.bpY2

/-- R140, R144, R145 in exact arithmetic: the filters of a voice after the input `x`; the output is the new `lpY1`. -/
def VoiceFilter.afterInput (f : VoiceFilter α) (x : α) : VoiceFilter α :=
  { f with
    bpY1 := f.resonance x
    bpY2 := f.bpY1
    lpY1 := f.lpA * (x + 2 * f.resonance x) + (1 - f.lpA) * f.lpY1 }

/-- R211 in exact arithmetic: the LFO factor of a chorus tap at LFO count `n`. -/
def lfoFactor (P : Params α) (n : Nat) (t : Tap α) : α :=
  1 - P.chLfoDepth + P.chLfoDepth * (1 - |2 * Int.fract ((n : α) / P.chLfoPeriod + t.lfoPhase) - 1|)

/-- R210 in exact arithmetic: a chorus tap's share of the wet signal, `y` being the delayed input. -/
def tapShare (P : Params α) (depth : BitVec 7) (n : Nat) (t : Tap α) (y : α) : Stereo α :=
  let g := t.gain * (depth.toNat : α) / 127 * lfoFactor P n t
  ⟨y * g * (1 - t.pan), y * g * t.pan⟩

/-- The outputs of an all-pass over a sequence of inputs (43_reverb.md R237). -/
def allPassOutputs (P : Params α) (len : Nat) : AllPass α → List α → List α
  | _, [] => []
  | a, x :: xs => (a.step P len x).1 :: allPassOutputs P len (a.step P len x).2 xs

/-- R231: one side of the reverb in exact arithmetic: every comb is fed `x`, their outputs are added, and the sum goes through the four
all-passes one after another; `y` is the side's output before `REV_WET`. -/
def SideStep (P : Params α) (fb damp x : α) (lens : List Nat) (combs combs' : List (Comb α)) (aps : List Nat)
    (chain chain' : List (AllPass α)) (y : α) : Prop :=
  combs' = (lens.zip combs).map (fun c => (c.2.step P.num c.1 x fb damp).2)
    ∧ ∀ n1 n2 n3 n4 a1 a2 a3 a4, aps = [n1, n2, n3, n4] → chain = [a1, a2, a3, a4] →
      ∃ r1 r2 r3 r4, r1 = a1.step P n1 ((lens.zip combs).map (fun c => (c.2.step P.num c.1 x fb damp).1)).sum
        ∧ r2 = a2.step P n2 r1.1 ∧ r3 = a3.step P n3 r2.1 ∧ r4 = a4.step P n4 r3.1
        ∧ chain' = [r1.2, r2.2, r3.2, r4.2] ∧ y = r4.1

/-- The signal values and coefficients a voice's variant stores (10_state.md R24). -/
def Tone.values : Tone α → List α
  | .piano => []
  | .square f => [f.lpA, f.lpY1, f.bpA, f.bpB, f.bpC, f.bpY1, f.bpY2]
  | .triangle f => [f.lpA, f.lpY1, f.bpA, f.bpB, f.bpC, f.bpY1, f.bpY2]
  | .sampled p => [p.pos, p.wFreq, p.wLs, p.wLe]

/-- The values a voice stores (R23, R24). -/
def Voice.values (v : Voice α) : List α := [v.bend, v.vibM, v.portaOff, v.portaStep, v.phase] ++ v.tone.values

/-- The values a delay memory stores. -/
def Line.values (b : Line α) : List α := b.map (·.2)

/-- The values an owner's effect units store (R59 to R61). -/
def FxUnits.values (x : FxUnits α) : List α :=
  Line.values x.chorus.hist ++ Line.values x.echo.histL ++ Line.values x.echo.histR ++ Line.values x.reverb.pre
    ++ [x.reverb.fb, x.reverb.damp]
    ++ (x.reverb.combL ++ x.reverb.combR).flatMap (fun c => c.store :: Line.values c.buf)
    ++ (x.reverb.apL ++ x.reverb.apR).flatMap (fun a => Line.values a.buf)

/-- Every value of NUM.V the state stores. -/
def State.values (s : State α) : List α :=
  s.channels.flatMap (fun ch => ch.voices.flatMap Voice.values) ++ s.fx.flatMap FxUnits.values

/-- R8: what the rules store without a primitive operation is representable: 0, the negative of a value (40_voice.md R150), and the
values of the parameter record. -/
structure Representable (P : Params α) : Prop where
  zero : P.num.V 0
  neg : ∀ x, P.num.V x → P.num.V (-x)
  vibDepth : ∀ d, P.num.V (P.vibDepth d)
  revFeedback : ∀ r, P.num.V (P.revFeedback r)
  revDamp : ∀ r, P.num.V (P.revDamp r)

/-- The bytes of a list of command words, in stream order (20_memory.md R75). -/
def streamOfWords (ws : List CmdWord) : List Byte := ws.flatMap bytesOfWord

/-- What a command word does in a block built with `P`: its command's meaning, or nothing where it is reserved (30_encoding.md R118). -/
def wordOp (P : Params α) (w : CmdWord) (s : State α) : State α :=
  match decodeWord w with
  | .instr i => commandOp P i s
  | .reserved _ => s

/-- `NOTEOFF` on channel `c`, or `NOTEON` with velocity 0 there (44_channel_commands.md R250). -/
def ReleasesOn (i : Instr) (c : Nat) : Prop :=
  (∃ a p v, i = .noteoff a p v ∧ a.toNat = c) ∨ ∃ a p, i = .noteon a p 0 ∧ a.toNat = c

end Sys2Proof.Machine
end

