-- ==== Sys2Proof/Certificates/Slice0/Obligations.lean ====
section
/-! DEFINITION. The statements about the block that the provers prove. Each follows numbered rules of spec/; a docstring names the
log entry where a statement rests on a choice of the model. -/

open Sys2Proof Sys2Proof.Machine

/-! ### Encoding (30_encoding.md) -/

/-- Decoding and encoding are inverse: every command, with every operand at every value, comes back from its eight bytes, and a word that
decodes to a command is that command's word (R101 to R106, R115, 20_memory.md R75). -/
def Obligations.DecodeAndEncodeAreInverse : Prop :=
  (∀ (i : Instr) (rest : List Byte), decodeBytes (bytesOfWord (encode i) ++ rest) = some (.instr i, rest))
    ∧ ∀ (w : CmdWord) (i : Instr), decodeWord w = .instr i → encode i = w

/-- R115: a word is the command of a row when its masked bits match, the rows are disjoint, and the operands are the row's free
fields. -/
def Obligations.OpcodeMapDecidesTheCommand : Prop :=
  (∀ (w : CmdWord) (r : OpcodeRow), r ∈ opcodeMap →
      (r.hits w ↔ ∃ i, decodeWord w = .instr i ∧ mnemonicOf i = r.mnemonic))
    ∧ (∀ (w : CmdWord) (r q : OpcodeRow), r ∈ opcodeMap → q ∈ opcodeMap → r.hits w → q.hits w → r = q)
    ∧ ∀ (w : CmdWord) (i : Instr), decodeWord w = .instr i → FreeFields w i

/-- R118: a word that matches no row, in particular one of an undefined opcode or with a non-zero bit in a must-be-zero field, executes
as NOP: the step takes its eight bytes off the stream and changes nothing else. The stream in State is the model's choice (log 4). -/
def Obligations.ReservedWordsExecuteAsNop : Prop :=
  (∀ (w : CmdWord) (s : State) (rest : List Byte), (∀ r ∈ opcodeMap, ¬ r.hits w) →
      s.stream = bytesOfWord w ++ rest → step s = .next { s with stream := rest })
    ∧ (∀ w : CmdWord, w.extractLsb' 56 8 ∉ definedOpcodes → ∀ r ∈ opcodeMap, ¬ r.hits w)
    ∧ ∀ (w : CmdWord) (r : OpcodeRow), r ∈ opcodeMap → w.extractLsb' 56 8 = r.matchBits.extractLsb' 56 8 →
        w &&& r.mask ≠ r.matchBits → ∀ q ∈ opcodeMap, ¬ q.hits w

/-- The example words of R120 decode to their commands. -/
def Obligations.SampleWordsDecode : Prop :=
  decodeWord 0x0000000000000000 = .instr .nop ∧ decodeWord 0x0100000000000000 = .instr .frame
    ∧ decodeWord 0x0200000000000000 = .instr .rewind ∧ decodeWord 0x0300000000000000 = .instr .mclr
    ∧ decodeWord 0x1000000000006445 = .instr (.noteon 0 69 100)
    ∧ decodeWord 0x1100000000004045 = .instr (.noteoff 0 69 64)
    ∧ decodeWord 0x1203000000006000 = .instr (.pbend 3 0 96)
    ∧ decodeWord 0x200103000000007F = .instr (.wrch 1 3 127)
    ∧ decodeWord 0x2100000000000040 = .instr (.wrg 0 64)
    ∧ decodeWord 0x3000020000000040 = .instr (.fxstart 0 2 64)
    ∧ decodeWord 0x4000000000000100 = .instr (.wavptr 0x100)
    ∧ decodeWord 0x410000000102FFFE = .instr (.wavdat (-2) 258)
    ∧ decodeWord 0x4205050001B80000 = .instr (.wdesc 5 5 0x01B80000)

/-! ### The step and the command stream (10_state.md R20, 20_memory.md R75, R76, R85) -/

/-- A step executes the command its stream begins with, on the state with that command's bytes taken; with fewer than eight bytes
presented the block waits, its state held (R76: a partial word is not executed). The stream in State and the waiting step are the
model's choice (log 4). -/
def Obligations.StepRunsTheDecodedCommand : Prop :=
  (∀ (s : State) (i : Instr) (rest : List Byte), decodeBytes s.stream = some (.instr i, rest) →
      step s = exec i { s with stream := rest })
    ∧ ∀ s : State, s.stream.length < 8 → step s = .next s

/-- R8: whatever NUM is, every value the block stores lies in NUM.V: at reset, and after every command that starts from such a state. The rules
store 0, a negated value and the parameters' values without an operation, so those are representable by hypothesis. -/
def Obligations.StoredValuesAreRepresentable : Prop :=
  ∀ (α : Type) [Field α] [LinearOrder α] [IsStrictOrderedRing α] [FloorRing α] (P : Params α), Representable P →
    (∀ x ∈ (State.resetOf P).values, P.num.V x)
      ∧ ∀ (i : Instr) (s : State α), (∀ x ∈ s.values, P.num.V x) → ∀ x ∈ (commandOp P i s).values, P.num.V x

/-- R85: the state after a command stream is the fold of the per-command step over its words, reserved words among them. The stream in
State is the model's choice (log 4). -/
def Obligations.StreamRunIsTheFoldOfItsWords : Prop :=
  ∀ (ws : List CmdWord) (rest : List Byte) (s : State), s.stream = streamOfWords ws ++ rest →
    Host.Core.run Sys2Proof.core ws.length s =
      .next { ws.foldl (fun s w => wordOp Config.params w s) s with stream := rest }

/-- R340: every command is total: each step and each command has a next state, and the running machine's commands are those of the
default build. -/
def Obligations.EveryCommandCompletes : Prop :=
  (∀ s : State, ∃ t, step s = .next t) ∧ ∀ (i : Instr) (s : State), exec i s = .next (commandOp Config.params i s)

/-- R112: a command one of whose indices names nothing that exists changes no state, in every build. -/
def Obligations.FailedIndexChecksChangeNothing : Prop :=
  (∀ (α : Type) [Field α] [LinearOrder α] [IsStrictOrderedRing α] [FloorRing α] (P : Params α) (i : Instr) (s : State α), i.wellFormed P = false → commandOp P i s = s)
    ∧ ∀ (i : Instr) (s : State), i.wellFormed Config.params = false → exec i s = .next s

/-! ### The invariant of the state (10_state.md) -/

/-- The reset state of every well-formed build, the running machine's among them, meets the invariant (R65). -/
def Obligations.ResetMeetsTheInvariant : Prop :=
  (∀ (α : Type) [Field α] [LinearOrder α] [IsStrictOrderedRing α] [FloorRing α] (P : Params α), P.wellFormed = true → StateInv P (State.resetOf P))
    ∧ Sys2Proof.Machine.State.reset.Inv

/-- Every step keeps the invariant: the sizes and ranges of 10_state.md, stable filters, the sustain latch, canonical memories. -/
def Obligations.StepKeepsTheInvariant : Prop :=
  ∀ s t : State, s.Inv → Sys2Proof.Machine.step s = .next t → t.Inv

/-- Every command of every well-formed build with exact arithmetic, over the reals or any other field of numbers, keeps the invariant, whatever
elementary functions with R8's properties it uses (00_scope.md R8, 93_implementation_defined.md U1, U7; the two positivities are log 21). -/
def Obligations.CommandsKeepTheInvariantOfAnyBuild : Prop :=
  ∀ (α : Type) [Field α] [LinearOrder α] [IsStrictOrderedRing α] [FloorRing α] (P : Params α) (i : Instr) (s : State α), P.wellFormed = true → ExactNum P.num → LawfulNum P.num →
    PositiveNum P.num → StateInv P s → StateInv P (commandOp P i s)

/-- The state that belongs to the whole block is written only by the commands the rules name: MASTER (R50), the counters and output
meters (R51), WPTR (R51), wave memory (R70), descriptors (R70), the output stream (R78), the effect units with their delay memories (R70),
effect configuration (R58, R61); no command touches the commands still to come. -/
def Obligations.GlobalStateHasItsWriters : Prop :=
  ∀ (i : Instr) (s t : State), exec i s = .next t →
    ((i = .rewind ∨ ∃ data, i = .wrg 0 data) ∨ t.master = s.master)
      ∧ ((i = .frame ∨ i = .rewind) ∨ t.frameCnt = s.frameCnt ∧ t.silenceCnt = s.silenceCnt)
      ∧ ((i = .frame ∨ i = .rewind ∨ i = .mclr) ∨ t.outPeakL = s.outPeakL ∧ t.outPeakR = s.outPeakR)
      ∧ (((∃ addr, i = .wavptr addr) ∨ ∃ l r, i = .wavdat l r) ∨ t.wptr = s.wptr)
      ∧ ((∃ l r, i = .wavdat l r) ∨ t.wmem = s.wmem)
      ∧ ((∃ d field data, i = .wdesc d field data) ∨ t.wd = s.wd)
      ∧ (i = .frame ∨ t.out = s.out)
      ∧ ((i = .frame ∨ i = .rewind ∨ ∃ owner u depth, i = .fxstart owner u depth) ∨ t.fx = s.fx)
      ∧ ((∃ owner u depth, i = .fxstart owner u depth) ∨ t.fx.map FxUnits.config = s.fx.map FxUnits.config)
      ∧ t.stream = s.stream

/-- The state of a channel is written only by the commands the rules name: its registers by WRCH and REWIND (R40), LASTPITCH by NOTEON and
REWIND, PEAK by FRAME, MCLR and REWIND, NV up by one by NOTEON alone and down by FRAME and REWIND alone (R44, 40_voice.md R156). But for those two,
every live voice stays in its slot, and of its fields (R23) only the bend is written, by PBEND, the release by NOTEOFF or a NOTEON of
velocity 0, and the pedal flag by WRCH SUSTAIN. -/
def Obligations.ChannelStateHasItsWriters : Prop :=
  ∀ (i : Instr) (s t : State) (c : Nat) (ch : Channel Rat), exec i s = .next t → s.channels[c]? = some ch →
    ∃ ch', t.channels[c]? = some ch'
      ∧ ((i = .rewind ∨ ∃ a idx data, i = .wrch a idx data ∧ a.toNat = c) ∨ ch'.registers = ch.registers)
      ∧ ((i = .rewind ∨ ∃ a p v, i = .noteon a p v ∧ a.toNat = c) ∨ ch'.lastPitch = ch.lastPitch)
      ∧ ((i = .frame ∨ i = .rewind ∨ i = .mclr) ∨ ch'.peak = ch.peak)
      ∧ ((i = .frame ∨ i = .rewind) ∧ ch'.nv ≤ ch.nv
        ∨ ch'.nv = ch.nv ∨ ch'.nv = ch.nv + 1 ∧ ∃ a p v, i = .noteon a p v ∧ a.toNat = c ∧ v ≠ 0)
      ∧ ((i = .frame ∨ i = .rewind) ∨ ∀ (k : Nat) (v : Voice Rat), ch.voices[k]? = some v →
          ∃ v' : Voice Rat, ch'.voices[k]? = some v'
            ∧ v' = { v with
                bend := v'.bend, rel := v'.rel, relTotal := v'.relTotal, relLeft := v'.relLeft, relOnce := v'.relOnce, sus := v'.sus }
            ∧ ((∃ a lsb msb, i = .pbend a lsb msb ∧ a.toNat = c) ∨ v'.bend = v.bend)
            ∧ (ReleasesOn i c
              ∨ v'.rel = v.rel ∧ v'.relTotal = v.relTotal ∧ v'.relLeft = v.relLeft ∧ v'.relOnce = v.relOnce)
            ∧ ((∃ a data, i = .wrch a 0x06 data ∧ a.toNat = c) ∨ v'.sus = v.sus))

/-! ### System and loading commands (46_system_commands.md, 42_chorus_echo.md R202) -/

/-- R310: NOP changes no state. -/
def Obligations.NopChangesNothing : Prop := ∀ s : State, exec .nop s = .next s

/-- R314: WRG writes the low seven bits to MASTER at index 0, and nothing at any other index. -/
def Obligations.WrgWritesMaster : Prop :=
  ∀ (idx : BitVec 8) (data : Word) (s : State),
    exec (.wrg idx data) s = .next (if idx = 0 then { s with master := BitVec.ofNat 7 (data.toNat % 128) } else s)

/-- R315: WAVPTR sets WPTR to any 32-bit value, and changes nothing else. -/
def Obligations.WavptrSetsThePointer : Prop :=
  ∀ (addr : Word) (s : State), exec (.wavptr addr) s = .next { s with wptr := addr }

/-- R316, R73: WAVDAT writes the one frame WPTR names, if the memory has it, advances WPTR modulo 2^32 either way, and changes nothing
else: every other frame reads as before. -/
def Obligations.WavdatWritesOneFrame : Prop :=
  ∀ (left right : BitVec 16) (s : State), ∃ m,
    exec (.wavdat left right) s = .next { s with wmem := m, wptr := s.wptr + 1 }
      ∧ (2 ^ 20 ≤ s.wptr.toNat → m = s.wmem)
      ∧ ∀ a, waveRead Config.params m a =
          if a = s.wptr.toNat ∧ a < 2 ^ 20 then ⟨left, right⟩ else waveRead Config.params s.wmem a

/-- R316: WAVPTR `a` followed by `n` WAVDAT commands fills those of the frames `a .. a + n - 1` that the memory has, and no others; the rest of
the data is discarded. -/
def Obligations.WavloadFillsConsecutiveFrames : Prop :=
  ∀ (addr : Word) (frames : List (BitVec 16 × BitVec 16)) (s : State), addr.toNat + frames.length ≤ 2 ^ 32 → ∃ m,
    runCommands (Pseudo.expand (.wavload addr frames)) s =
        .next { s with wmem := m, wptr := addr + BitVec.ofNat 32 frames.length }
      ∧ (∀ (k : Nat) (f : BitVec 16 × BitVec 16), frames[k]? = some f → addr.toNat + k < 2 ^ 20 →
          waveRead Config.params m (addr.toNat + k) = ⟨f.1, f.2⟩)
      ∧ (2 ^ 20 ≤ addr.toNat → m = s.wmem)
      ∧ ∀ a, a < addr.toNat ∨ addr.toNat + frames.length ≤ a → waveRead Config.params m a = waveRead Config.params s.wmem a

/-- R317: WDESC writes the field its number names and nothing else; the field then reads back as the bits it keeps (20_memory.md R80),
every other field as before; with no such descriptor or field nothing changes, in every build. -/
def Obligations.WdescWritesOneField : Prop :=
  (∀ (α : Type) [Field α] [LinearOrder α] [IsStrictOrderedRing α] [FloorRing α] (P : Params α) (d field : BitVec 8) (data : Word)
      (s : State α), P.ndesc ≤ d.toNat ∨ 7 < field.toNat →
      commandOp P (.wdesc d field data) s = s)
    ∧ (∀ (d field : BitVec 8) (data : Word) (s : State), 7 < field.toNat → exec (.wdesc d field data) s = .next s)
    ∧ ∀ (d field : BitVec 8) (data : Word) (s : State) (x : Descriptor), s.wd[d.toNat]? = some x → field.toNat ≤ 7 →
        ∃ x', exec (.wdesc d field data) s = .next { s with wd := s.wd.set d.toNat x' }
          ∧ (field = 0 → x' = { x with program := data.extractLsb' 0 7, bank := data.extractLsb' 8 14 })
          ∧ (field = 1 → x' = { x with
              pitchFrom := data.extractLsb' 0 7, pitchTo := data.extractLsb' 8 7, nomPitch := data.extractLsb' 16 7 })
          ∧ (field = 2 → x' = { x with
              valid := data.extractLsb' 0 1, loop := data.extractLsb' 1 1, alwaysSustain := data.extractLsb' 2 1 })
          ∧ (field = 3 → x' = { x with baseAddr := data }) ∧ (field = 4 → x' = { x with length := data })
          ∧ (field = 5 → x' = { x with baseFreq := data }) ∧ (field = 6 → x' = { x with loopStart := data })
          ∧ (field = 7 → x' = { x with loopEnd := data })
          ∧ x'.readField field.toNat = data &&& descriptorFieldMasks.getD field.toNat 0
          ∧ ∀ g, g ≠ field.toNat → x'.readField g = x.readField g

/-- R121, 46_system_commands.md R318: the eight WDESC of the pseudo-instruction DESC leave descriptor `d` with exactly the values
given, flags to their three bits, and frequency and loop points rounded to their fields. Where `round` takes a half, and that it wraps, is the
model's choice (log 17). -/
def Obligations.DescWritesAWholeDescriptor : Prop :=
  ∀ (d : BitVec 8) (bank : BitVec 14) (program pfrom pto nom : BitVec 7) (flags base len : Word) (freq ls le : Rat) (s : State),
    s.wd.length = 256 →
    runCommands (Pseudo.expand (.desc d bank program pfrom pto nom flags base len freq ls le)) s =
      .next { s with wd := (s.wd.set d.toNat
        { program := program, bank := bank, pitchFrom := pfrom, pitchTo := pto, nomPitch := nom
          valid := flags.extractLsb' 0 1, loop := flags.extractLsb' 1 1, alwaysSustain := flags.extractLsb' 2 1
          baseAddr := base, length := len, baseFreq := roundWord (freq * 65536)
          loopStart := roundWord (ls * 256), loopEnd := roundWord (le * 256) }) }

/-- R313: MCLR clears the peak meters and nothing else. -/
def Obligations.MclrClearsTheMeters : Prop :=
  ∀ s : State, exec .mclr s =
    .next { s with outPeakL := 0, outPeakR := 0, channels := s.channels.map (fun ch => { ch with peak := 0 }) }

/-- R382, R312: REWIND is reset, then WPTR, descriptors, wave memory, effect depths and coefficients and the output stream put back;
twice in a row it equals once. -/
def Obligations.RewindIsResetWithPartsPutBack : Prop :=
  ∀ s : State, ∃ t, exec .rewind s = .next t ∧ exec .rewind t = .next t
    ∧ t = { State.reset with
        channels := List.replicate s.channels.length Channel.reset
        wptr := s.wptr, wd := s.wd, wmem := s.wmem, out := s.out, stream := s.stream
        fx := s.fx.map (fun x =>
          ⟨⟨x.chorus.depth, [], 0, 0⟩, ⟨x.echo.depth, [], [], 0⟩,
            ⟨x.reverb.depth, x.reverb.fb, x.reverb.damp, [], 0, List.replicate 8 ⟨[], 0, 0⟩, List.replicate 8 ⟨[], 0, 0⟩,
              List.replicate 4 ⟨[], 0⟩, List.replicate 4 ⟨[], 0⟩⟩⟩) }
    ∧ (s.channels.length = 16 → t.channels = State.reset.channels)

/-- Whatever the state was, after REWIND every FRAME emits (0, 0) as long as no other command comes, for any number of frames, even with
effects enabled: nothing of the old pass sounds in the new one (R312, R383, 45_frame_mixer.md R293). -/
def Obligations.RewindThenFramesAreSilent : Prop :=
  ∀ (s : State) (n : Nat), ∃ t, runCommands (.rewind :: List.replicate n .frame) s = .next t
    ∧ t.out = s.out ++ List.replicate (4 * n) 0
    ∧ t.frameCnt = BitVec.ofNat 32 n ∧ t.silenceCnt = BitVec.ofNat 32 (min n (2 ^ 32 - 1))
    ∧ t.outPeakL = 0 ∧ t.outPeakR = 0 ∧ t.channels = List.replicate s.channels.length Channel.reset

/-- R202: FXSTART stores the depth, clears the unit's signal state and, for a reverb with a depth above 0, computes its coefficients; a
unit or owner that does not exist is a no-op. It writes no other unit and nothing else, in every build. -/
def Obligations.FxstartStartsOneUnit : Prop :=
  (∀ (α : Type) [Field α] [LinearOrder α] [IsStrictOrderedRing α] [FloorRing α] (P : Params α) (owner u : BitVec 8)
      (depth : BitVec 7) (s : State α), P.hasUnit u = false ∨ P.hasOwner owner = false →
      commandOp P (.fxstart owner u depth) s = s)
    ∧ (∀ (α : Type) [Field α] [LinearOrder α] [IsStrictOrderedRing α] [FloorRing α] (P : Params α) (owner u : BitVec 8)
      (depth : BitVec 7) (s : State α), P.hasUnit u = true → P.hasOwner owner = true →
      s.fx.length = P.owners →
      ∃ o x x', (P.topology = .shared → o = 0) ∧ (P.topology = .priv → o = owner.toNat) ∧ s.fx[o]? = some x
        ∧ commandOp P (.fxstart owner u depth) s = { s with fx := s.fx.set o x' }
        ∧ (u = 0 → x' = { x with chorus := ⟨depth, [], 0, 0⟩ })
        ∧ (u = 1 → x' = { x with echo := ⟨depth, [], [], 0⟩ })
        ∧ (u = 2 → x' = { x with reverb :=
            ⟨depth,
              if depth = 0 then x.reverb.fb else P.revFeedback (P.num.div (P.num.mul depth.toNat 100) 127),
              if depth = 0 then x.reverb.damp else P.revDamp (P.num.div (P.num.mul depth.toNat 100) 127),
              [], 0, List.replicate 8 ⟨[], 0, 0⟩, List.replicate 8 ⟨[], 0, 0⟩, List.replicate 4 ⟨[], 0⟩,
              List.replicate 4 ⟨[], 0⟩⟩ }))
    ∧ ∀ (owner u : BitVec 8) (depth : BitVec 7) (s : State),
        exec (.fxstart owner u depth) s = .next (commandOp Config.params (.fxstart owner u depth) s)

/-- R239, R238: whatever NUM a block has and whichever laws override the defaults, FXSTART computes coefficients in [0, 1) for every depth above 0,
if the record passes the check. With the defaults those of every depth 1 to 127 lie in the narrower ranges of R239, and at the three depths of R238's table both have the
tabulated values to ten places. The elementary functions behind them are the running machine's (log 1). -/
def Obligations.ReverbCoefficientsAreStable : Prop :=
  (∀ (α : Type) [Field α] [LinearOrder α] [IsStrictOrderedRing α] [FloorRing α] (P : Params α) (v : Reverb α), P.wellFormed = true → v.depth ≠ 0 →
      0 ≤ (v.coefficients P).fb ∧ (v.coefficients P).fb < 1 ∧ 0 ≤ (v.coefficients P).damp ∧ (v.coefficients P).damp < 1)
    ∧ (∀ d : BitVec 7, d ≠ 0 →
      3 / 10 < Config.params.revFeedback ((d.toNat : Rat) * 100 / 127)
        ∧ Config.params.revFeedback ((d.toNat : Rat) * 100 / 127) ≤ 98 / 100
        ∧ 2 / 10 < Config.params.revDamp ((d.toNat : Rat) * 100 / 127)
        ∧ Config.params.revDamp ((d.toNat : Rat) * 100 / 127) ≤ 5 / 10)
    ∧ |Config.params.revFeedback (100 / 127) - 3193246491 / 10 ^ 10| ≤ 1 / 10 ^ 10
    ∧ |Config.params.revFeedback (6400 / 127) - 8833230656 / 10 ^ 10| ≤ 1 / 10 ^ 10
    ∧ |Config.params.revFeedback 100 - 98 / 100| ≤ 1 / 10 ^ 10
    ∧ |Config.params.revDamp (100 / 127) - 2023622047 / 10 ^ 10| ≤ 1 / 10 ^ 10
    ∧ |Config.params.revDamp (6400 / 127) - 3511811024 / 10 ^ 10| ≤ 1 / 10 ^ 10
    ∧ Config.params.revDamp 100 = 5 / 10

/-! ### Channel commands (44_channel_commands.md) -/

/-- R250, R251, R253, R254: NOTEON on a channel of variant Piano, Square or Triangle that has a free slot puts a new voice, with the
fields of R251, in slot NV and its key in LASTPITCH, and changes nothing else. The coefficients are those of the default build over the
running machine's elementary functions (log 1, log 2). -/
def Obligations.NoteonAllocatesAProceduralVoice : Prop :=
  ∀ (c : BitVec 8) (p v : BitVec 7) (s : State) (ch : Channel Rat), c.toNat < 16 → s.channels[c.toNat]? = some ch → v ≠ 0 →
    ch.nv < 32 → ch.variant ≠ 3 →
    ∃ tone off step on,
      exec (.noteon c p v) s = .next (s.setChannel c.toNat
        { ch with voices := ch.voices ++ [freshVoice ch p v tone off step on], lastPitch := some p })
      ∧ GlideFields ch p off step on
      ∧ (ch.variant = 0 → tone = .piano) ∧ (ch.variant = 1 → ∃ f, tone = .square f) ∧ (ch.variant = 2 → ∃ f, tone = .triangle f)
      ∧ ∀ f, tone = .square f ∨ tone = .triangle f →
          f.lpA = lpCoef Config.params ((ch.cutoff.toNat : Rat) * 44100 / 256)
            ∧ (⟨f.bpA, f.bpB, f.bpC⟩ : BandCoef Rat) =
              bpCoef Config.params (440 * Numeric.exp2 (((p.toNat : Rat) - 69) / 12)) (8 * (128 - (ch.resonance.toNat : Rat))) .pitched
            ∧ f.lpY1 = 0 ∧ f.bpY1 = 0 ∧ f.bpY2 = 0

/-- R250, R251, R252: NOTEON on a channel of variant Sampled takes the lowest-numbered descriptor that covers the key and copies it into
the new voice. -/
def Obligations.NoteonAllocatesASampledVoice : Prop :=
  ∀ (c : BitVec 8) (p v : BitVec 7) (s : State) (ch : Channel Rat) (before : List Descriptor) (d : Descriptor) (after : List Descriptor),
    c.toNat < 16 → s.channels[c.toNat]? = some ch → v ≠ 0 → ch.nv < 32 → ch.variant = 3 →
    s.wd = before ++ d :: after → (∀ x ∈ before, ¬ DescriptorMatches ch p x) → DescriptorMatches ch p d →
    ∃ off step on, GlideFields ch p off step on
      ∧ exec (.noteon c p v) s = .next (s.setChannel c.toNat
        { ch with
          voices := ch.voices ++ [freshVoice ch p v
            (.sampled
              { pos := 0, wBase := d.baseAddr, wLen := d.length, wFreq := (d.baseFreq.toNat : Rat) / 65536
                wLoop := d.loop == 1, wAlways := d.alwaysSustain == 1
                wLs := (d.loopStart.toNat : Rat) / 256, wLe := (d.loopEnd.toNat : Rat) / 256 }) off step on]
          lastPitch := some p })

/-- R250, conditions X1, X2, X6 of 60_exceptions.md R341, and the order of the checks of R346: a NOTEON of velocity 0 is NOTEOFF with
velocity 0, even on a full channel; at the polyphony cap, or with no descriptor for a Sampled key, the note is dropped and no state
changes. -/
def Obligations.NoteonIsDroppedOrReleases : Prop :=
  (∀ (c : BitVec 8) (p : BitVec 7) (s : State), exec (.noteon c p 0) s = exec (.noteoff c p 0) s)
    ∧ (∀ (c : BitVec 8) (p v : BitVec 7) (s : State), 16 ≤ c.toNat → exec (.noteon c p v) s = .next s)
    ∧ ∀ (c : BitVec 8) (p v : BitVec 7) (s : State) (ch : Channel Rat), s.channels[c.toNat]? = some ch → v ≠ 0 →
        (32 ≤ ch.nv ∨ (ch.variant = 3 ∧ ∀ x ∈ s.wd, ¬ DescriptorMatches ch p x)) → exec (.noteon c p v) s = .next s

/-- R255: NOTEOFF releases the lowest slot that holds the key, an always-sustain match consumes it, and with no match, or no such channel,
nothing changes; no other voice and nothing else is touched. -/
def Obligations.NoteoffReleasesTheLowestSlot : Prop :=
  (∀ (c : BitVec 8) (p v : BitVec 7) (s : State), 16 ≤ c.toNat → exec (.noteoff c p v) s = .next s)
    ∧ ∀ (c : BitVec 8) (p v : BitVec 7) (s : State) (ch : Channel Rat), c.toNat < 16 → s.channels[c.toNat]? = some ch →
      ((∀ t ∈ ch.voices, ¬ Holds p t) → exec (.noteoff c p v) s = .next s)
        ∧ ∀ (before : List (Voice Rat)) (t : Voice Rat) (after : List (Voice Rat)), ch.voices = before ++ t :: after →
          (∀ u ∈ before, ¬ Holds p u) → Holds p t →
          ((∃ q, t.tone = .sampled q ∧ q.wAlways = true) → exec (.noteoff c p v) s = .next s)
            ∧ ((∀ q, t.tone = .sampled q → q.wAlways = false) →
              exec (.noteoff c p v) s = .next (s.setChannel c.toNat
                { ch with voices := before ++
                  { t with
                    rel := true, relOnce := true, relTotal := Config.relLen t.tone.variant v.toNat
                    relLeft :=
                      if t.tone = .piano ∧ 44100 * (143 - t.key.toNat) / 16 ≤ t.age then 0
                      else Config.relLen t.tone.variant v.toNat } :: after }))

/-- R258: PBEND bends the newest live voice of the channel, by the signed bend over 8192 times BENDRANGE semitones, and touches nothing
else; with no voice, or no such channel, nothing changes. -/
def Obligations.PbendBendsTheNewestVoice : Prop :=
  (∀ (c : BitVec 8) (lsb msb : BitVec 7) (s : State), 16 ≤ c.toNat → exec (.pbend c lsb msb) s = .next s)
    ∧ ∀ (c : BitVec 8) (lsb msb : BitVec 7) (s : State) (ch : Channel Rat), c.toNat < 16 → s.channels[c.toNat]? = some ch →
      (ch.voices = [] → exec (.pbend c lsb msb) s = .next s)
        ∧ ∀ (before : List (Voice Rat)) (t : Voice Rat), ch.voices = before ++ [t] →
          exec (.pbend c lsb msb) s = .next (s.setChannel c.toNat
            { ch with voices := before ++
              [{ t with bend := ((128 * msb.toNat + lsb.toNat : Rat) - 8192) / 8192 * ch.bendRange.toNat }] })

/-- R260, R43, R262: WRCH stores the low bits of the value in the register it names; every other register, the bookkeeping fields and the
voices are as before, but that writing SUSTAIN holds the voices not yet released, or lets every voice go. An index outside 0x00 to 0x11,
or no such channel, is a no-op. -/
def Obligations.WrchWritesOneRegister : Prop :=
  (∀ (c idx : BitVec 8) (data : Word) (s : State), 16 ≤ c.toNat ∨ 0x11 < idx.toNat → exec (.wrch c idx data) s = .next s)
    ∧ ∀ (c idx : BitVec 8) (data : Word) (s : State) (ch : Channel Rat), c.toNat < 16 → s.channels[c.toNat]? = some ch →
      idx.toNat ≤ 0x11 →
      ∃ ch', exec (.wrch c idx data) s = .next (s.setChannel c.toNat ch')
        ∧ ch'.readReg idx.toNat = BitVec.ofNat 32 (data.toNat % 2 ^ channelRegisterBits.getD idx.toNat 0)
        ∧ (∀ j, j ≠ idx.toNat → ch'.readReg j = ch.readReg j)
        ∧ ch'.lastPitch = ch.lastPitch ∧ ch'.peak = ch.peak
        ∧ ch'.voices =
          if idx = 0x06 then
            ch.voices.map (fun t =>
              if data.getLsbD 0 then (if t.relOnce then t else { t with sus := true }) else { t with sus := false })
          else ch.voices

/-- R153: the sustain table: from each of its four states, each of its three events takes a voice to the state the table gives; a voice
that meets the latch invariant is in one of the four. -/
def Obligations.SustainTableHolds : Prop :=
  ∀ (c : BitVec 8) (vel : BitVec 7) (data : Word) (s : State) (ch : Channel Rat) (t : Voice Rat) (e : PedalEvent), c.toNat < 16 →
    s.channels[c.toNat]? = some ch → ch.voices = [t] → t.relOnce = t.rel → (∀ q, t.tone = .sampled q → q.wAlways = false) →
    ∃ u ch' t', exec (e.command c t.key vel data) s = .next u ∧ u.channels[c.toNat]? = some ch' ∧ ch'.voices = [t']
      ∧ sustainTable e t.latch = some t'.latch

/-! ### FRAME (45_frame_mixer.md) -/

/-- R292, R293, R74: a FRAME appends one frame of four bytes, left sample first and low byte first, and moves the counters and output
meters on by that frame; MASTER, WPTR, descriptors, wave memory and the commands to come stay. -/
def Obligations.FrameEmitsOneFrameAndCounts : Prop :=
  ∀ s : State, ∃ (t : State) (oL oR : Int) (b0 b1 b2 b3 : Byte), exec .frame s = .next t
    ∧ -32768 ≤ oL ∧ oL ≤ 32767 ∧ -32768 ≤ oR ∧ oR ≤ 32767
    ∧ t.out = s.out ++ [b0, b1, b2, b3] ∧ IsSample b0 b1 oL ∧ IsSample b2 b3 oR
    ∧ t.frameCnt.toNat = (s.frameCnt.toNat + 1) % 2 ^ 32
    ∧ t.silenceCnt.toNat = (if oL = 0 ∧ oR = 0 then min (s.silenceCnt.toNat + 1) (2 ^ 32 - 1) else 0)
    ∧ t.outPeakL = max s.outPeakL oL.natAbs ∧ t.outPeakR = max s.outPeakR oR.natAbs
    ∧ t.master = s.master ∧ t.wptr = s.wptr ∧ t.wd = s.wd ∧ t.wmem = s.wmem ∧ t.stream = s.stream

/-- R280 for a SHARED block in exact arithmetic, in closed form: each channel's live voices are summed and weighted, the units that exist and are
enabled are stepped once on their send buses, and the frame is the clipped sum of channels and units, scaled by the master volume (R284 to
R289); the running machine is such a block. -/
def Obligations.FrameOfTheSharedBlock : Prop :=
  (∀ (α : Type) [Field α] [LinearOrder α] [IsStrictOrderedRing α] [FloorRing α] (P : Params α) (s : State α) (x : FxUnits α), ExactNum P.num → P.topology = .shared → s.fx = [x] →
    (frameOp P s).fx = [x.fedBy P (s.sends P)]
      ∧ (frameOp P s).out = s.out ++ pcmFrame s.master
          (stereoSum (s.channels.map (fun ch => ch.weightedMix P s.wmem) ++ x.returns P (s.sends P))))
    ∧ ExactNum Config.params.num ∧ Config.params.topology = .shared ∧ ∀ s : State, exec .frame s = .next (frameOp Config.params s)

/-- R282, R283, R290, R41: a FRAME advances every live voice once and drops those that report `Silence`, the others keeping their order;
the meter keeps the largest mix; no register of the channel changes. -/
def Obligations.FrameAdvancesEveryVoiceOnce : Prop :=
  (∀ (α : Type) [Field α] [LinearOrder α] [IsStrictOrderedRing α] [FloorRing α] (P : Params α) (s : State α), ExactNum P.num →
      (frameOp P s).channels = s.channels.map (fun ch =>
        { ch with
          voices := ch.survivors P s.wmem
          peak := max ch.peak
            (min ⌊max |(ch.weightedMix P s.wmem).l| |(ch.weightedMix P s.wmem).r|⌋.toNat (2 ^ 31 - 1)) }))
    ∧ ∀ s : State, exec .frame s = .next (frameOp Config.params s)

/-- R131: what a frame does to a voice that goes on. Of R23 and R24 it changes no field that is fixed or written by commands only; age and
release budget move on (R154), and so do vibrato (R150) and glide (R152), a voice that does not glide keeping its offset. In exact arithmetic the phase moves by `f / FS` (R134), the filters of a Square or Triangle voice take the
waveform, twice the band-pass output added back, into the low-pass (R140, R144, R145), a sample's position moves on (R148), and the output is
scaled by peak level, velocity, envelope or attack, release and soft gain (R135 to R137, R140, R146). -/
def Obligations.AdvanceMovesAVoiceOn : Prop :=
  ∀ (α : Type) [Field α] [LinearOrder α] [IsStrictOrderedRing α] [FloorRing α] (P : Params α) (mem : WaveMem) (ch : Channel α) (v v' : Voice α) (o : Stereo α),
    v.advance P mem ch = some (o, v') →
    v'.key = v.key ∧ v'.vel = v.vel ∧ v'.bend = v.bend ∧ v'.rel = v.rel ∧ v'.relTotal = v.relTotal ∧ v'.sus = v.sus
      ∧ v'.relOnce = v.relOnce ∧ v'.soft = v.soft ∧ v'.portaStep = v.portaStep ∧ v'.tone.variant = v.tone.variant
      ∧ (∀ f, v.tone = .square f ∨ v.tone = .triangle f →
          ∃ f', (v'.tone = .square f' ∨ v'.tone = .triangle f') ∧ f'.lpA = f.lpA ∧ f'.bpA = f.bpA ∧ f'.bpB = f.bpB ∧ f'.bpC = f.bpC)
      ∧ (∀ p, v.tone = .sampled p → v'.phase = v.phase ∧ ∃ pos, v'.tone = .sampled { p with pos := pos })
      ∧ v'.age = min (v.age + 1) (2 ^ 32 - 1)
      ∧ v'.relLeft = (if v.rel = true ∧ v.sus = false then v.relLeft - 1 else v.relLeft)
      ∧ v'.vibM = (v.vibratoStep P ch).vibM ∧ v'.vibDir = (v.vibratoStep P ch).vibDir
      ∧ v'.portaOff = (v.portamentoStep P.num).portaOff ∧ v'.portaOn = (v.portamentoStep P.num).portaOn
      ∧ (v.portaOn = false → v'.portaOff = v.portaOff ∧ v'.portaOn = false)
      ∧ (ExactNum P.num →
        (v.tone.variant ≠ .sampled → v'.phase = Int.fract (v.phase + v.frequency P.num / P.fs))
          ∧ (v.tone = .piano →
            o.l = P.peakPiano * v.level * v.pianoEnv P * pianoWave P v.phase ∧ o.r = o.l)
          ∧ (∀ f, v.tone = .square f → v'.tone = .square (f.afterInput (squareWave P v.phase))
            ∧ o.l = P.peakSquare * v.level * attackGain P v.age * (f.afterInput (squareWave P v.phase)).lpY1 ∧ o.r = o.l)
          ∧ (∀ f, v.tone = .triangle f → v'.tone = .triangle (f.afterInput (triangleWave P v.phase))
            ∧ o.l = P.peakTriangle * v.level * attackGain P v.age * (f.afterInput (triangleWave P v.phase)).lpY1 ∧ o.r = o.l)
          ∧ ∀ p, v.tone = .sampled p → v'.tone = .sampled (p.advance P.num (v.frequency P.num))
            ∧ o = ⟨(p.read P mem).l * v.level, (p.read P mem).r * v.level⟩)

/-- R281: a channel after a FRAME depends on that channel and on wave memory only, in every build. -/
def Obligations.ChannelsDoNotInfluenceEachOther : Prop :=
  ∀ (α : Type) [Field α] [LinearOrder α] [IsStrictOrderedRing α] [FloorRing α] (P : Params α) (s s' : State α) (c : Nat), s.channels[c]? = s'.channels[c]? → s.wmem = s'.wmem →
    (frameOp P s).channels[c]? = (frameOp P s').channels[c]?

/-- R291: in a PRIVATE build the units of a channel after a FRAME depend on that channel, its own units and wave memory only. In exact
arithmetic each enabled unit of a channel is stepped once on the channel's weighted mix, unscaled by any send register, and the frame
emitted is the clipped, master-scaled sum of the channel mixes and the outputs of the enabled units. -/
def Obligations.PrivateUnitsAreFedByTheirChannelAlone : Prop :=
  ∀ (α : Type) [Field α] [LinearOrder α] [IsStrictOrderedRing α] [FloorRing α] (P : Params α), P.topology = .priv →
    (∀ (s s' : State α) (c : Nat), s.channels[c]? = s'.channels[c]? → s.fx[c]? = s'.fx[c]? → s.wmem = s'.wmem →
      (frameOp P s).fx[c]? = (frameOp P s').fx[c]?)
    ∧ ∀ s : State α, ExactNum P.num → s.fx.length = s.channels.length →
      (frameOp P s).fx = (s.channels.zip s.fx).map (fun cx => cx.2.fedBy P (cx.1.feed P s.wmem))
        ∧ (frameOp P s).out = s.out ++ pcmFrame s.master (stereoSum ((s.channels.zip s.fx).flatMap fun cx =>
            cx.1.weightedMix P s.wmem :: cx.2.returns P (cx.1.feed P s.wmem)))

/-- R289: the clipper: in range it drops the fraction toward zero, out of range it saturates, and it never reverses an order. -/
def Obligations.ClipperSaturatesAndTruncates : Prop :=
  ∀ (α : Type) [Field α] [LinearOrder α] [IsStrictOrderedRing α] [FloorRing α] (y : α), -32768 ≤ toPcm y ∧ toPcm y ≤ 32767 ∧ (32767 ≤ y → toPcm y = 32767)
    ∧ (y ≤ -32768 → toPcm y = -32768)
    ∧ (-32768 ≤ y → y ≤ 32767 → |(toPcm y : α)| ≤ |y| ∧ |y| < |(toPcm y : α)| + 1)
    ∧ (0 ≤ y → 0 ≤ toPcm y) ∧ (y ≤ 0 → toPcm y ≤ 0) ∧ ∀ z : α, y ≤ z → toPcm y ≤ toPcm z

/-! ### The voice engine (40_voice.md) -/

/-- R132: a voice reports `Silence` exactly when its release budget, its envelope or its sample is exhausted. -/
def Obligations.SilenceIsExhaustion : Prop :=
  ∀ (α : Type) [Field α] [LinearOrder α] [IsStrictOrderedRing α] [FloorRing α] (P : Params α) (mem : WaveMem) (ch : Channel α) (v : Voice α), v.advance P mem ch = none ↔
    ((v.rel = true ∧ v.sus = false ∧ v.relLeft = 0) ∨ (v.tone = .piano ∧ P.pianoDur v.key.toNat ≤ v.age)
      ∨ ∃ p, v.tone = .sampled p ∧ (p.wLen.toNat : Int) ≤ ⌊p.pos⌋ + 1)

/-- R135: the release gain of a voice of any variant is 1 while it is not released or has its whole budget, and else `relLeft / relTotal`.
So (R132, R153) a released Square or Triangle voice that no pedal holds plays `relTotal` more frames, with gains falling in equal steps
from 1 to `1 / relTotal`, and then reports `Silence`, at once where `relTotal` is 0; one that the pedal holds keeps its level and its
budget. -/
def Obligations.ReleaseIsALinearRamp : Prop :=
  ∀ (α : Type) [Field α] [LinearOrder α] [IsStrictOrderedRing α] [FloorRing α] (P : Params α), ExactNum P.num →
    (∀ v : Voice α, v.releaseGain P.num = v.fade)
    ∧ ∀ (mem : WaveMem) (ch : Channel α) (v : Voice α),
      (v.tone.variant = .square ∨ v.tone.variant = .triangle) → v.rel = true → v.relLeft = v.relTotal →
    (v.sus = false →
      (∀ k, k < v.relTotal → ∃ w, v.afterFrames P mem ch k = some w ∧ w.advance P mem ch ≠ none
        ∧ w.releaseGain P.num = ((v.relTotal - k : Nat) : α) / v.relTotal)
      ∧ ∃ w, v.afterFrames P mem ch v.relTotal = some w ∧ w.advance P mem ch = none)
    ∧ (v.sus = true → ∀ k, ∃ w, v.afterFrames P mem ch k = some w ∧ w.releaseGain P.num = 1 ∧ w.relLeft = v.relTotal)

/-- R152, R254: a glide moves the pitch offset to 0 in `n` equal steps, and then ends. -/
def Obligations.GlideEndsAfterItsFrames : Prop :=
  ∀ (α : Type) [Field α] [LinearOrder α] [IsStrictOrderedRing α] [FloorRing α] (P : Params α) (mem : WaveMem) (ch : Channel α) (v : Voice α) (n : Nat), ExactNum P.num →
    v.portaOn = true → v.portaOff ≠ 0 → 0 < n → v.portaStep = v.portaOff / n →
    ∀ k w, v.afterFrames P mem ch k = some w →
      w.portaOff = (if k < n then v.portaOff * ((n - k : Nat) : α) / n else 0) ∧ (w.portaOn = true ↔ k < n)

/-- R132, R139: with the default PIANO_DUR a Piano voice that is not released plays exactly PIANO_DUR of its key frames; a Square or Triangle
voice that is not released never ends. -/
def Obligations.UnreleasedVoicesPlayOn : Prop :=
  ∀ (α : Type) [Field α] [LinearOrder α] [IsStrictOrderedRing α] [FloorRing α], (∀ (N : Sys2Proof.Num α) (mem : WaveMem) (ch : Channel α) (v : Voice α),
      v.tone = .piano → v.rel = false → v.age = 0 →
      (∀ k, k < 44100 * (143 - v.key.toNat) / 16 →
        ∃ w, v.afterFrames (Config.defaults N) mem ch k = some w ∧ w.age = k ∧ w.advance (Config.defaults N) mem ch ≠ none)
      ∧ ∃ w, v.afterFrames (Config.defaults N) mem ch (44100 * (143 - v.key.toNat) / 16) = some w
        ∧ w.advance (Config.defaults N) mem ch = none)
    ∧ ∀ (P : Params α) (mem : WaveMem) (ch : Channel α) (v : Voice α),
        (v.tone.variant = .square ∨ v.tone.variant = .triangle) → v.rel = false → ∀ k, v.afterFrames P mem ch k ≠ none

/-- R148, R149: a looped sample whose loop end is at most its last frame never runs past its data: unreleased, it sounds for any number of
frames. -/
def Obligations.LoopedSampleNeverEnds : Prop :=
  ∀ (α : Type) [Field α] [LinearOrder α] [IsStrictOrderedRing α] [FloorRing α] (P : Params α) (mem : WaveMem) (ch : Channel α) (v : Voice α) (p : SamplePlay α), ExactNum P.num →
    v.tone = .sampled p → v.rel = false → p.wLoop = true → p.wLs < p.wLe → p.wLe ≤ (p.wLen.toNat : α) - 1 → p.pos < p.wLe →
    ∀ k, v.afterFrames P mem ch k ≠ none

/-- R148: the read position moves on by the frequency ratio; where that reaches the loop end it comes back by a whole number of loop
spans, fraction kept, into the loop; an unlooped sample, or one whose loop points are not in order, runs straight on. The two divisors
involved are not 0, under a NUM that rounds too if it keeps signs (60_exceptions.md R341; log 22). -/
def Obligations.LoopWrapKeepsTheFraction : Prop :=
  ∀ (α : Type) [Field α] [LinearOrder α] [IsStrictOrderedRing α] [FloorRing α] (N : Sys2Proof.Num α),
    (ExactNum N → ∀ (p : SamplePlay α) (f : α), ∃ pos, p.advance N f = { p with pos := pos }
      ∧ ((p.wLoop = false ∨ p.wLe ≤ p.wLs ∨ p.pos + f / p.wFreq < p.wLe) → pos = p.pos + f / p.wFreq)
      ∧ (p.wLoop = true → p.wLs < p.wLe → p.wLe ≤ p.pos + f / p.wFreq →
        p.wLs ≤ pos ∧ pos < p.wLe ∧ ∃ n : Nat, pos + n * (p.wLe - p.wLs) = p.pos + f / p.wFreq))
    ∧ (N.KeepsSign → (∀ freq : Word, 0 < freq.toNat → 0 < uq16_16 N freq) ∧ ∀ a b : α, a < b → 0 < N.sub b a)

/-- R150: the vibrato moves by exactly one step in its direction; where that reaches a bound it stops there and turns; so after every frame it
lies within the depth. -/
def Obligations.VibratoMovesByItsStepAndTurns : Prop :=
  ∀ (α : Type) [Field α] [LinearOrder α] [IsStrictOrderedRing α] [FloorRing α] (P : Params α) (ch : Channel α) (v : Voice α) (d m : α), P.wellFormed = true → ExactNum P.num →
    d = P.vibDepth ch.modDepth.toNat →
    m = v.vibM + (if v.vibDir = .up then 1 else -1) * (4 * d * P.vibRateHz ch.modSpeed.toNat / P.fs) →
    (d ≤ m → (v.vibratoStep P ch).vibM = d ∧ (v.vibratoStep P ch).vibDir = .down)
      ∧ (m < d → m ≤ -d → (v.vibratoStep P ch).vibM = -d ∧ (v.vibratoStep P ch).vibDir = .up)
      ∧ (-d < m → m < d → (v.vibratoStep P ch).vibM = m ∧ (v.vibratoStep P ch).vibDir = v.vibDir)
      ∧ -d ≤ (v.vibratoStep P ch).vibM ∧ (v.vibratoStep P ch).vibM ≤ d

/-- R133: the frequency law: 440 Hz times two to the power of a twelfth of the pitch above key 69; it is 440 Hz at key 69 with no offset,
doubles with every twelve semitones of bend, and is positive where `exp2` is (log 21). -/
def Obligations.FrequencyLawHolds : Prop :=
  ∀ (α : Type) [Field α] [LinearOrder α] [IsStrictOrderedRing α] [FloorRing α] (N : Sys2Proof.Num α) (v : Voice α), ExactNum N → LawfulNum N →
    v.frequency N = 440 * N.exp2Fn (((v.key.toNat : α) + v.bend + v.vibM + v.portaOff - 69) / 12)
      ∧ ({ v with bend := v.bend + 12 } : Voice α).frequency N = 2 * v.frequency N
      ∧ (v.key = 69 → v.bend = 0 → v.vibM = 0 → v.portaOff = 0 → v.frequency N = 440)
      ∧ (PositiveNum N → 0 < v.frequency N)

/-- R137, R138, R139, R141, R142, R143: the waveforms of the default parameters have their shapes and lie in [-1, 1], the attack ramp in [0, 1]
and at 1 from age 50 on, the Piano envelope is linear between breakpoints, and a Piano voice never exceeds its peak level, alike on both
sides. -/
def Obligations.WaveformsFollowTheirRulesAndAreBounded : Prop :=
  ∀ (α : Type) [Field α] [LinearOrder α] [IsStrictOrderedRing α] [FloorRing α] (N : Sys2Proof.Num α), ExactNum N → LawfulNum N →
    (∀ ph : α, pianoWave (Config.defaults N) ph =
        ((List.range 11).map fun k => N.sin2piFn (((k + 1 : Nat) : α) * ph) / ((k + 1 : Nat) : α)).sum * 27720 / 83711
      ∧ squareWave (Config.defaults N) ph =
        max (-1) (min 1 (8 * if ph < 1 / 4 then 4 * ph else if ph < 3 / 4 then 2 - 4 * ph else 4 * ph - 4))
      ∧ triangleWave (Config.defaults N) ph = (if ph < 1 / 4 then 8 * ph - 1 else 1 - 8 / 3 * (ph - 1 / 4))
      ∧ |pianoWave (Config.defaults N) ph| ≤ 1 ∧ |squareWave (Config.defaults N) ph| ≤ 1
      ∧ (0 ≤ ph → ph < 1 → |triangleWave (Config.defaults N) ph| ≤ 1))
    ∧ (∀ age : Nat, attackGain (Config.defaults N) age = ((min age 50 : Nat) : α) / 50)
    ∧ (∀ (P : Params α) (v : Voice α) (pre post : List (α × α)) (x0 g0 x1 g1 t : α), P.wellFormed = true → ExactNum P.num →
        P.pianoEnv = pre ++ (x0, g0) :: (x1, g1) :: post → t = (v.age : α) / P.pianoDur v.key.toNat → x0 ≤ t → t < x1 →
        v.pianoEnv P = g0 + (g1 - g0) * ((t - x0) / (x1 - x0)))
    ∧ ∀ (mem : WaveMem) (ch : Channel α) (v v' : Voice α) (o : Stereo α), VoiceInv (Config.defaults N) v → v.tone = .piano →
        v.advance (Config.defaults N) mem ch = some (o, v') → |o.l| ≤ 8192 ∧ o.r = o.l

/-- R147: while a Sampled voice sounds, both frames it reads lie inside its sample, and each side of its output lies between the two
recorded values. -/
def Obligations.SampleReadStaysInside : Prop :=
  ∀ (α : Type) [Field α] [LinearOrder α] [IsStrictOrderedRing α] [FloorRing α] (P : Params α) (mem : WaveMem) (p : SamplePlay α), ExactNum P.num → 0 ≤ p.pos →
    ⌊p.pos⌋ + 1 < (p.wLen.toNat : Int) →
    ⌊p.pos⌋.toNat + 1 < p.wLen.toNat
      ∧ ∀ f g, f = waveRead P mem (p.wBase.toNat + ⌊p.pos⌋.toNat) → g = waveRead P mem (p.wBase.toNat + ⌊p.pos⌋.toNat + 1) →
        (p.read P mem).l = (f.left.toInt : α) + ((g.left.toInt : α) - f.left.toInt) * (p.pos - ⌊p.pos⌋)
          ∧ (p.read P mem).r = (f.right.toInt : α) + ((g.right.toInt : α) - f.right.toInt) * (p.pos - ⌊p.pos⌋)
          ∧ ((min f.left.toInt g.left.toInt : Int) : α) ≤ (p.read P mem).l
          ∧ (p.read P mem).l ≤ ((max f.left.toInt g.left.toInt : Int) : α)
          ∧ ((min f.right.toInt g.right.toInt : Int) : α) ≤ (p.read P mem).r
          ∧ (p.read P mem).r ≤ ((max f.right.toInt g.right.toInt : Int) : α)

/-! ### The filters (41_filters.md) -/

/-- R180 to R183, R188: the one-pole steps are their difference equations; their coefficients have their closed forms, the cutoff clamped into
[0, FS/2], and lie in their ranges; a cutoff of 0 passes every input through the low-pass unchanged, whatever its history, and nothing through
the high-pass; bounded input gives bounded output (`pi` is positive: log 21). -/
def Obligations.OnePoleFiltersFollowTheirRulesAndStayBounded : Prop :=
  ∀ (α : Type) [Field α] [LinearOrder α] [IsStrictOrderedRing α] [FloorRing α] (P : Params α) (fc M : α) (xs : List α),
    0 < P.fs → ExactNum P.num → PositiveNum P.num → (∀ x ∈ xs, |x| ≤ M) →
    (∀ a y1 x, lpStep P.num a y1 x = a * x + (1 - a) * y1)
      ∧ (∀ a h x, hpStep P.num a h x = ((x - h.x1 + h.y1) * a, ⟨x, (x - h.x1 + h.y1) * a⟩))
      ∧ 0 < lpCoef P fc ∧ lpCoef P fc ≤ 1 ∧ 0 ≤ hpCoef P fc ∧ hpCoef P fc < 1
      ∧ (fc ≤ 0 → lpCoef P fc = 1 ∧ hpCoef P fc = 0 ∧ (∀ y1, lpOutputs P.num (lpCoef P fc) y1 xs = xs)
        ∧ ∀ h, hpOutputs P.num (hpCoef P fc) h xs = List.replicate xs.length 0)
      ∧ (∀ rc, 0 < fc → fc ≤ (P.fs : α) / 2 → rc = 1 / (2 * P.num.piConst * fc) →
        lpCoef P fc = 1 / (1 + rc * P.fs) ∧ hpCoef P fc = rc / (rc + 1 / P.fs))
      ∧ ((P.fs : α) / 2 < fc → lpCoef P fc = lpCoef P ((P.fs : α) / 2) ∧ hpCoef P fc = hpCoef P ((P.fs : α) / 2))
      ∧ (∀ y ∈ lpOutputs P.num (lpCoef P fc) 0 xs, |y| ≤ M)
      ∧ ∀ y ∈ hpOutputs P.num (hpCoef P fc) ⟨0, 0⟩ xs, |y| ≤ 2 * hpCoef P fc * M / (1 - hpCoef P fc)

/-- R184 to R188: the resonator's step is its difference equation; whatever centre frequency and bandwidth are asked for, its coefficients are
those of both clamped, its poles are a complex pair inside the unit circle, and bounded input gives output within R188's bound, read in the reals through an order
embedding (`pi` is positive: log 21). -/
def Obligations.ResonatorFollowsItsRulesAndStaysBounded : Prop :=
  ∀ (α : Type) [Field α] [LinearOrder α] [IsStrictOrderedRing α] [FloorRing α] (P : Params α) (fc bw M fc' bw' : α) (mode : ScaleMode)
      (k : BandCoef α) (xs : List α) (real : α →+* ℝ),
    0 < P.fs → 0 < P.bwMin → ExactNum P.num → LawfulNum P.num → PositiveNum P.num → StrictMono real → (∀ x ∈ xs, |x| ≤ M) →
    fc' = (if fc < 0 then 0 else if (P.fs : α) / 2 < fc then (P.fs : α) / 2 else fc) →
    bw' = (if bw < P.bwMin then P.bwMin else if (P.fs : α) / 2 < bw then (P.fs : α) / 2 else bw) →
    k = bpCoef P fc bw mode →
    (∀ y1 y2 x, bpStep P.num k y1 y2 x = k.a * x - k.b * y1 - k.c * y2)
      ∧ k.c = P.num.expFn (-2 * P.num.piConst * bw' / P.fs)
      ∧ k.b = -(4 * k.c / (1 + k.c)) * P.num.cos2piFn (fc' / P.fs)
      ∧ (mode = .pitched → k.a = (1 - k.c) * P.num.sqrtFn (1 - k.b * k.b / (4 * k.c)))
      ∧ (mode = .noise → k.a = P.num.sqrtFn (((1 + k.c) * (1 + k.c) - k.b * k.b) * (1 - k.c) / (1 + k.c)))
      ∧ 0 < k.c ∧ k.c < 1 ∧ k.b * k.b < 4 * k.c
      ∧ ∀ y ∈ bpOutputs P.num k 0 0 xs,
          |real y| ≤ |real k.a| * real M / ((1 - Real.sqrt (real k.c)) * Real.sqrt (1 - real k.b ^ 2 / (4 * real k.c)))

/-! ### The effects (42_chorus_echo.md, 43_reverb.md) -/

/-- R201: `process` of a disabled unit is the identity and leaves its state; of an enabled one it answers the wet signal, or the input
plus it. -/
def Obligations.ProcessContractHolds : Prop :=
  ∀ (α : Type) [Field α] [LinearOrder α] [IsStrictOrderedRing α] [FloorRing α] (P : Params α) (s : Stereo α),
    (∀ x : Chorus α, x.process P s = if x.depth = 0 then (s, x)
        else (if P.chorusWetOnly then (x.wet P s).1 else s.add P.num (x.wet P s).1, (x.wet P s).2))
    ∧ (∀ x : Echo α, x.process P s = if x.depth = 0 then (s, x)
        else (if P.echoWetOnly then (x.wet P s).1 else s.add P.num (x.wet P s).1, (x.wet P s).2))
    ∧ ∀ x : Reverb α, x.process P s = if x.depth = 0 then (s, x)
        else (if P.reverbWetOnly then (x.wet P s).1 else s.add P.num (x.wet P s).1, (x.wet P s).2)

/-- R92, R210, R211, R233: from a cleared unit, reading a delay line at delay `d` gives the input of exactly `d` calls ago, 0 where there was
none: the chorus history at every delay up to its length, and the pre-delay at its own length. So the chorus's wet signal is the sum of its
taps, each the mono input of its delay ago times its gain, its LFO factor and its pan shares. -/
def Obligations.DelayLinesReplayTheirInput : Prop :=
  ∀ (α : Type) [Field α] [LinearOrder α] [IsStrictOrderedRing α] [FloorRing α] (P : Params α),
    (∀ (x : Chorus α) (ins : List (Stereo α)), ExactNum P.num → x.hist = [] → x.w < P.chorusLen →
      (∀ d, 1 ≤ d → d ≤ P.chorusLen →
        lineRead (x.fed P ins).hist (ringIndex (x.fed P ins).w d P.chorusLen) = inputAgo (ins.map (fun s => (s.l + s.r) / 2)) d)
      ∧ (x.lfoN < P.chLfoPeriod → (∀ t ∈ P.chTaps, 1 ≤ t.delay) → ∀ s : Stereo α,
        ((x.fed P ins).wet P s).1 = stereoSum (P.chTaps.map fun t =>
          tapShare P x.depth ((x.lfoN + ins.length) % P.chLfoPeriod) t
            (inputAgo (ins.map (fun s => (s.l + s.r) / 2)) t.delay))))
    ∧ ∀ (v : Reverb α) (xs : List α) (x0 : α), v.pre = [] → (0 < P.revPredelay → v.pw < P.revPredelay) →
        ((v.predelayFed P xs).predelay P x0).1 = if P.revPredelay = 0 then x0 else inputAgo xs P.revPredelay

/-- R220: the echo's wet signal is three delayed copies of its input and nothing else, on each side: there is no feedback. -/
def Obligations.EchoIsThreeDelayedCopies : Prop :=
  ∀ (α : Type) [Field α] [LinearOrder α] [IsStrictOrderedRing α] [FloorRing α] (P : Params α) (x : Echo α) (ins : List (Stereo α)) (s : Stereo α) (g1 g2 g3 : α), ExactNum P.num →
    P.echoGain = [g1, g2, g3] → 0 < P.echoBase → x.histL = [] → x.histR = [] → x.w < P.echoLen →
    ((x.fed P ins).wet P s).1 =
      ⟨inputAgo (ins.map (·.l)) P.echoBase * (g1 * x.depth.toNat / 127)
          + inputAgo (ins.map (·.l)) (2 * P.echoBase) * (g2 * x.depth.toNat / 127)
          + inputAgo (ins.map (·.l)) (3 * P.echoBase) * (g3 * x.depth.toNat / 127),
        inputAgo (ins.map (·.r)) P.echoBase * (g1 * x.depth.toNat / 127)
          + inputAgo (ins.map (·.r)) (2 * P.echoBase) * (g2 * x.depth.toNat / 127)
          + inputAgo (ins.map (·.r)) (3 * P.echoBase) * (g3 * x.depth.toNat / 127)⟩

/-- R231, R236, R237, R239: from the cleared state a comb's output is its input of `len` calls ago plus `fb` times the damped output of then, and
with coefficients in their ranges it answers bounded input with bounded output for ever; an all-pass's output is
`(1 + g) x[n - len] + g out[n - len] - x[n]`; and a step of the reverb is, on each side, the gained mono input through the pre-delay into every
comb, and the sum of the combs through the four all-passes in series. -/
def Obligations.CombsAndAllPassesFollowTheirRules : Prop :=
  ∀ (α : Type) [Field α] [LinearOrder α] [IsStrictOrderedRing α] [FloorRing α] (P : Params α), ExactNum P.num →
    (∀ (len : Nat) (fb damp : α) (xs outs : List α), 0 < len → outs = combOutputs P.num len fb damp Comb.cleared xs →
      (∀ k, k < xs.length → outs[k]? = some (if k < len then 0
        else xs.getD (k - len) 0 + fb * (lpOutputs P.num (1 - damp) 0 outs).getD (k - len) 0))
      ∧ ∀ M, 0 ≤ fb → fb < 1 → 0 ≤ damp → damp < 1 → (∀ x ∈ xs, |x| ≤ M) → ∀ y ∈ outs, |y| ≤ M / (1 - fb))
    ∧ (∀ (len : Nat) (xs outs : List α), 0 < len → outs = allPassOutputs P len AllPass.cleared xs →
      ∀ k, k < xs.length → outs[k]? = some (if k < len then -xs.getD k 0
        else (1 + P.apFeedback) * xs.getD (k - len) 0 + P.apFeedback * outs.getD (k - len) 0 - xs.getD k 0))
    ∧ ∀ (v : Reverb α) (s : Stereo α), P.combLen.length = v.combL.length → P.combLen.length = v.combR.length →
      ∃ x yl yr v', v.wet P s = (⟨yl * P.revWet, yr * P.revWet⟩, v')
        ∧ (x, { v with pre := v'.pre, pw := v'.pw }) = v.predelay P ((s.l + s.r) * P.revGain)
        ∧ v'.depth = v.depth ∧ v'.fb = v.fb ∧ v'.damp = v.damp
        ∧ (P.apLen.length = 4 → v.apL.length = 4 → v.apR.length = 4 →
          SideStep P v.fb v.damp x P.combLen v.combL v'.combL P.apLen v.apL v'.apL yl
            ∧ SideStep P v.fb v.damp x (P.combLen.map (· + P.stereoSpread)) v.combR v'.combR
              (P.apLen.map (· + P.stereoSpread)) v.apR v'.apR yr)

/-! ### The read port (20_memory.md R80) -/

/-- R80, R40, R44, R50, R51, R53, R58: what the read port answers in any state that meets the invariant: the global registers, a channel's registers and
bookkeeping, the depths of the effect units, the descriptor fields as R53 packs them, and 0 for everything that does not exist, an absent echo
among it; the low byte of a request is ignored. With it, the replies after reset (R65, R380). -/
def Obligations.ReadPortShowsTheState : Prop :=
  (∀ (s : State) (low : BitVec 8), s.Inv →
      (∀ a : BitVec 8, (readPort s (request 0 a 0x00 low)).toNat = s.master.toNat
        ∧ readPort s (request 0 a 0x10 low) = s.frameCnt ∧ readPort s (request 0 a 0x11 low) = s.silenceCnt
        ∧ (readPort s (request 0 a 0x12 low)).toNat = s.outPeakL ∧ (readPort s (request 0 a 0x13 low)).toNat = s.outPeakR
        ∧ readPort s (request 0 a 0x14 low) = s.wptr)
      ∧ (∀ (c : BitVec 8) (ch : Channel Rat), s.channels[c.toNat]? = some ch →
        (List.range 0x12).map (fun i => (readPort s (request 1 c (BitVec.ofNat 8 i) low)).toNat) =
            [ch.variant.toNat, ch.bank.toNat, ch.program.toNat, ch.volume.toNat, ch.pan.toNat, ch.expression.toNat, ch.sustain.toNat,
              ch.soft.toNat, ch.modDepth.toNat, ch.modSpeed.toNat, ch.bendRange.toNat, ch.portaEn.toNat, ch.portaTime.toNat,
              ch.cutoff.toNat, ch.resonance.toNat, ch.sendReverb.toNat, ch.sendChorus.toNat, ch.sendEcho.toNat]
          ∧ (readPort s (request 1 c 0x20 low)).toNat = ch.voices.length
          ∧ (ch.lastPitch = none → readPort s (request 1 c 0x21 low) = 0xFFFFFFFF)
          ∧ (∀ p, ch.lastPitch = some p → (readPort s (request 1 c 0x21 low)).toNat = p.toNat)
          ∧ (readPort s (request 1 c 0x22 low)).toNat = ch.peak)
      ∧ (∀ (a : BitVec 8) (x : FxUnits Rat), s.fx = [x] →
        (readPort s (request 2 a 0 low)).toNat = x.chorus.depth.toNat ∧ readPort s (request 2 a 1 low) = 0
          ∧ (readPort s (request 2 a 2 low)).toNat = x.reverb.depth.toNat)
      ∧ ∀ (d : BitVec 8) (x : Descriptor), s.wd[d.toNat]? = some x →
        (readPort s (request 3 d 0 low)).toNat = x.program.toNat + 2 ^ 8 * x.bank.toNat
          ∧ (readPort s (request 3 d 1 low)).toNat = x.pitchFrom.toNat + 2 ^ 8 * x.pitchTo.toNat + 2 ^ 16 * x.nomPitch.toNat
          ∧ (readPort s (request 3 d 2 low)).toNat = x.valid.toNat + 2 * x.loop.toNat + 4 * x.alwaysSustain.toNat
          ∧ readPort s (request 3 d 3 low) = x.baseAddr ∧ readPort s (request 3 d 4 low) = x.length
          ∧ readPort s (request 3 d 5 low) = x.baseFreq ∧ readPort s (request 3 d 6 low) = x.loopStart
          ∧ readPort s (request 3 d 7 low) = x.loopEnd)
    ∧ (∀ low : BitVec 8,
      (∀ c : BitVec 8, c.toNat < 16 →
        (List.range 0x12).map (fun i => readPort State.reset (request 1 c (BitVec.ofNat 8 i) low)) =
            [0, 0, 0, 100, 64, 127, 0, 0, 0, 64, 2, 0, 0, 0, 0, 0, 0, 0]
          ∧ readPort State.reset (request 1 c 0x20 low) = 0 ∧ readPort State.reset (request 1 c 0x21 low) = 0xFFFFFFFF
          ∧ readPort State.reset (request 1 c 0x22 low) = 0)
      ∧ (∀ a : BitVec 8, readPort State.reset (request 0 a 0x00 low) = 127
          ∧ ∀ b : BitVec 8, b ≠ 0 → readPort State.reset (request 0 a b low) = 0)
      ∧ ∀ a b : BitVec 8, readPort State.reset (request 2 a b low) = 0 ∧ readPort State.reset (request 3 a b low) = 0)
    ∧ ∀ (s : State) (space a b low : BitVec 8),
        (4 ≤ space.toNat ∨ (space = 0 ∧ b ∉ [0x00, 0x10, 0x11, 0x12, 0x13, 0x14])
          ∨ (space = 1 ∧ (16 ≤ a.toNat ∨ (0x11 < b.toNat ∧ b.toNat < 0x20) ∨ 0x22 < b.toNat))
          ∨ (space = 2 ∧ (b = 1 ∨ 2 < b.toNat)) ∨ (space = 3 ∧ 7 < b.toNat)) →
        readPort s (request space a b low) = 0

/-! ### The numeric configuration (00_scope.md R8) -/

/-- R8: the spec's default NUM, the reals with the elementary functions themselves, and the running machine's NUM (log 1) are exact and have the
named properties, with the two positivities of log 21; every value is representable in both; and the default parameters over either are in
range (U2), so that every statement about well-formed exact builds is about both. -/
def Obligations.NumericConfigurationsAreLawful : Prop :=
  (LawfulNum realNum ∧ PositiveNum realNum ∧ ExactNum realNum ∧ (∀ x, realNum.V x) ∧ Config.realParams.InRange)
    ∧ LawfulNum Numeric.exactNum ∧ PositiveNum Numeric.exactNum ∧ ExactNum Numeric.exactNum ∧ (∀ x, Numeric.exactNum.V x)
    ∧ Config.params.InRange

/-- R8, log 1: the running machine's sine and cosine of a phase, and its `pi`, are the default NUM's to fifteen places. -/
def Obligations.SineAndCosineAreAccurate : Prop :=
  (∀ x : Rat, |(Numeric.exactNum.sin2piFn x : ℝ) - realNum.sin2piFn x| ≤ 1 / 10 ^ 15
      ∧ |(Numeric.exactNum.cos2piFn x : ℝ) - realNum.cos2piFn x| ≤ 1 / 10 ^ 15)
    ∧ |(Numeric.exactNum.piConst : ℝ) - realNum.piConst| ≤ 1 / 10 ^ 15

/-- R8, log 1: against the default NUM the running machine's `exp2` has a relative error of at most 10^-15, its `exp` too for exponents up to 1000 (the
filters and the reverb ask for exponents between -4 and 0), its `ln` one of at most 10^-15 of 1 plus the logarithm's size, and its
square root is the real one rounded down to a multiple of 2^-64. -/
def Obligations.PowersLogarithmAndRootAreAccurate : Prop :=
  (∀ x : Rat, |(Numeric.exactNum.exp2Fn x : ℝ) - realNum.exp2Fn x| ≤ realNum.exp2Fn x / 10 ^ 15)
    ∧ (∀ x : Rat, |x| ≤ 1000 → |(Numeric.exactNum.expFn x : ℝ) - realNum.expFn x| ≤ realNum.expFn x / 10 ^ 15)
    ∧ (∀ x : Rat, 0 < x → |(Numeric.exactNum.lnFn x : ℝ) - realNum.lnFn x| ≤ (1 + |realNum.lnFn x|) / 10 ^ 15)
    ∧ ∀ x : Rat, 0 ≤ x → ∃ k : Nat, Numeric.exactNum.sqrtFn x = (k : Rat) / 2 ^ 64
        ∧ (k : ℝ) / 2 ^ 64 ≤ realNum.sqrtFn x ∧ realNum.sqrtFn x < ((k : ℝ) + 1) / 2 ^ 64
end

