-- ==== Sys2Proof/Laws/Arith.lean ====
section
/-! SUPPORT. The operations of an exact NUM are those of the rationals, and the running machine's NUM and parameters by name. -/

namespace Sys2Proof

set_option Elab.async false
set_option linter.unusedSectionVars false

variable {α : Type} [Field α] [LinearOrder α] [FloorRing α]

/-- The running machine's NUM is exact. -/
theorem exactNum_exact : ExactNum Numeric.exactNum := fun _ => rfl

section
variable {N : Num α} (h : ExactNum N)
include h

theorem add_exact (a b : α) : N.add a b = a + b := h _
theorem sub_exact (a b : α) : N.sub a b = a - b := h _
theorem mul_exact (a b : α) : N.mul a b = a * b := h _
theorem div_exact (a b : α) : N.div a b = a / b := h _
theorem frac_exact (x : α) : N.frac x = x - (⌊x⌋ : α) := h _
theorem fmod_exact (x s : α) : N.fmod x s = x - s * (⌊x / s⌋ : α) := h _
theorem lerp_exact (a b t : α) : N.lerp a b t = a + (b - a) * t := by
  simp only [Num.lerp, add_exact h, sub_exact h, mul_exact h]
theorem sin2pi_exact (x : α) : N.sin2pi x = N.sin2piFn x := h _
theorem cos2pi_exact (x : α) : N.cos2pi x = N.cos2piFn x := h _
theorem exp2_exact (x : α) : N.exp2 x = N.exp2Fn x := h _
theorem exp_exact (x : α) : N.exp x = N.expFn x := h _
theorem sqrt_exact (x : α) : N.sqrt x = N.sqrtFn x := h _

end

section
open Numeric

@[simp] theorem exactNum_rnd (x : Rat) : exactNum.rnd x = x := rfl
@[simp] theorem exactNum_add (a b : Rat) : exactNum.add a b = a + b := rfl
@[simp] theorem exactNum_sub (a b : Rat) : exactNum.sub a b = a - b := rfl
@[simp] theorem exactNum_mul (a b : Rat) : exactNum.mul a b = a * b := rfl
@[simp] theorem exactNum_div (a b : Rat) : exactNum.div a b = a / b := rfl
@[simp] theorem exactNum_frac (x : Rat) : exactNum.frac x = x - (⌊x⌋ : Rat) := rfl
@[simp] theorem exactNum_fmod (x s : Rat) : exactNum.fmod x s = x - s * (⌊x / s⌋ : Rat) := rfl

end

@[simp] theorem params_num : Config.params.num = Numeric.exactNum := rfl
@[simp] theorem params_fs : Config.params.fs = 44100 := rfl
@[simp] theorem params_nchan : Config.params.nchan = 16 := rfl
@[simp] theorem params_maxPoly : Config.params.maxPoly = 32 := rfl
@[simp] theorem params_topology : Config.params.topology = .shared := rfl
@[simp] theorem params_hasEcho : Config.params.hasEcho = false := rfl
@[simp] theorem params_wmemFrames : Config.params.wmemFrames = 2 ^ 20 := rfl
@[simp] theorem params_ndesc : Config.params.ndesc = 256 := rfl
@[simp] theorem params_owners : Config.params.owners = 1 := rfl
@[simp] theorem params_attackLen : Config.params.attackLen = 50 := rfl
@[simp] theorem params_pianoDur (p : Nat) : Config.params.pianoDur p = 44100 * (143 - p) / 16 := rfl
@[simp] theorem params_relLen (k : Variant) (v : Nat) : Config.params.relLen k v = Config.relLen k v := rfl
@[simp] theorem params_vibDepth (d : Nat) : Config.params.vibDepth d = (d : Rat) / 128 := rfl
@[simp] theorem params_vibRateHz (s : Nat) : Config.params.vibRateHz s = (s : Rat) / 16 := rfl
@[simp] theorem params_portaSamples (t : Nat) : Config.params.portaSamples t = 441 * t := rfl
@[simp] theorem params_panL (p : Nat) : Config.params.panL p = 1 - (p : Rat) / 127 := rfl
@[simp] theorem params_panR (p : Nat) : Config.params.panR p = (p : Rat) / 127 := rfl

namespace Machine

/-- A clamp lies between its bounds. -/
theorem clamp_mem (x lo hi : α) (h : lo ≤ hi) : lo ≤ clamp x lo hi ∧ clamp x lo hi ≤ hi := by
  unfold clamp
  split
  · exact ⟨le_refl _, h⟩
  · split
    · exact ⟨h, le_refl _⟩
    · exact ⟨not_lt.1 ‹_›, not_lt.1 ‹_›⟩

/-- Inside its bounds a clamp is the identity. -/
theorem clamp_of_mem (x lo hi : α) (h1 : lo ≤ x) (h2 : x ≤ hi) : clamp x lo hi = x := by
  simp [clamp, not_lt.2 h1, not_lt.2 h2]

end Machine

end Sys2Proof
end

