-- ==== Sys2Proof/Laws/Ops.lean ====
section
/-! SUPPORT. What the shared operations over memories and registers can do: read after write, writes keep the canonical form, an update
touches one element only. -/

namespace Sys2Proof.Machine

set_option Elab.async false
set_option linter.unusedSectionVars false

variable {α : Type} [Field α] [LinearOrder α] [FloorRing α]

/-! ### The canonical sparse list -/

theorem sparseFind_sparseSet_self {α : Type} (m : List (Nat × α)) (i : Nat) (v : α) :
    sparseFind (sparseSet m i v) i = some v := by
  induction m with
  | nil => simp [sparseSet, sparseFind]
  | cons e rest ih =>
    obtain ⟨k, u⟩ := e
    by_cases h1 : i < k
    · simp [sparseSet, sparseFind, h1]
    · by_cases h2 : i = k
      · simp [sparseSet, sparseFind, h2]
      · simp [sparseSet, sparseFind, h1, h2, ih]

theorem sparseFind_sparseSet_ne {α : Type} (m : List (Nat × α)) (i j : Nat) (v : α) (h : j ≠ i) :
    sparseFind (sparseSet m i v) j = sparseFind m j := by
  induction m with
  | nil => simp [sparseSet, sparseFind, h]
  | cons e rest ih =>
    obtain ⟨k, u⟩ := e
    by_cases h1 : i < k
    · simp [sparseSet, sparseFind, h1, h]
    · by_cases h2 : i = k
      · subst h2; simp [sparseSet, sparseFind, h]
      · simp [sparseSet, sparseFind, h1, h2, ih]

/-- What a canonical list can be: empty, or a first key below the bound and below every key of a canonical rest. -/
theorem sparseWf_cons {α : Type} (bound k : Nat) (u : α) (rest : List (Nat × α)) :
    sparseWf bound ((k, u) :: rest) = true ↔
      k < bound ∧ sparseWf bound rest = true ∧ ∀ e ∈ rest.head?, k < e.1 := by
  induction rest generalizing k u with
  | nil => simp [sparseWf]
  | cons e rest ih =>
    obtain ⟨k', u'⟩ := e
    have h := (ih k' u')
    simp only [sparseWf, Bool.and_eq_true, decide_eq_true_eq, List.head?_cons, Option.mem_def, Option.some.injEq,
      forall_eq', h]
    constructor
    · rintro ⟨h1, h2, h3⟩; exact ⟨by omega, ⟨h2, h3⟩, h1⟩
    · rintro ⟨-, h23, h1⟩; exact ⟨h1, h23⟩

/-- Every key of a canonical list is below the bound and above a key its first key is above. -/
theorem sparseWf_keys {α : Type} (bound : Nat) (m : List (Nat × α)) (h : sparseWf bound m = true) (lo : Nat)
    (hlo : ∀ e ∈ m.head?, lo < e.1) : ∀ e ∈ m, lo < e.1 ∧ e.1 < bound := by
  induction m generalizing lo with
  | nil => simp
  | cons e rest ih =>
    obtain ⟨k, u⟩ := e
    obtain ⟨h1, h2, h3⟩ := (sparseWf_cons bound k u rest).1 h
    have hk : lo < k := hlo (k, u) (by simp)
    intro e he
    rcases List.mem_cons.1 he with rfl | he
    · exact ⟨hk, h1⟩
    · have := ih h2 k h3 e he
      exact ⟨by omega, this.2⟩

theorem sparseFind_eq_none_of_lt {α : Type} (bound : Nat) (m : List (Nat × α)) (h : sparseWf bound m = true) (i : Nat)
    (hi : ∀ e ∈ m.head?, i < e.1) : sparseFind m i = none := by
  induction m with
  | nil => rfl
  | cons e rest ih =>
    obtain ⟨k, u⟩ := e
    obtain ⟨-, h2, h3⟩ := (sparseWf_cons bound k u rest).1 h
    have hk : i < k := hi (k, u) (by simp)
    have : ∀ e ∈ rest.head?, i < e.1 := fun e he => lt_trans hk (h3 e he)
    simp [sparseFind, Nat.ne_of_lt hk, ih h2 this]

theorem sparseSet_wf {α : Type} (bound : Nat) (m : List (Nat × α)) (i : Nat) (v : α) (hi : i < bound)
    (h : sparseWf bound m = true) : sparseWf bound (sparseSet m i v) = true := by
  induction m with
  | nil => simp [sparseSet, sparseWf, hi]
  | cons e rest ih =>
    obtain ⟨k, u⟩ := e
    obtain ⟨h1, h2, h3⟩ := (sparseWf_cons bound k u rest).1 h
    by_cases hlt : i < k
    · simp only [sparseSet, hlt, if_true]
      exact (sparseWf_cons ..).2 ⟨hi, h, by simpa using hlt⟩
    · by_cases heq : i = k
      · subst heq
        simp only [sparseSet, lt_irrefl, if_false, if_true]
        exact (sparseWf_cons ..).2 ⟨hi, h2, h3⟩
      · simp only [sparseSet, hlt, heq, if_false]
        refine (sparseWf_cons ..).2 ⟨h1, ih h2, ?_⟩
        cases rest with
        | nil => simp [sparseSet]; omega
        | cons e' rest' =>
          obtain ⟨k', u'⟩ := e'
          have h3' : k < k' := h3 (k', u') (by simp)
          by_cases ha : i < k'
          · simp [sparseSet, ha]; omega
          · by_cases hb : i = k'
            · simp [sparseSet, hb, h3']
            · simp [sparseSet, ha, hb, h3']

theorem sparseErase_wf {α : Type} (bound : Nat) (m : List (Nat × α)) (i : Nat) (h : sparseWf bound m = true) :
    sparseWf bound (sparseErase m i) = true := by
  induction m with
  | nil => simp [sparseErase, sparseWf]
  | cons e rest ih =>
    obtain ⟨k, u⟩ := e
    obtain ⟨h1, h2, h3⟩ := (sparseWf_cons bound k u rest).1 h
    by_cases heq : i = k
    · simp [sparseErase, heq, h2]
    · simp only [sparseErase, heq, if_false]
      refine (sparseWf_cons ..).2 ⟨h1, ih h2, ?_⟩
      cases rest with
      | nil => simp [sparseErase]
      | cons e' rest' =>
        obtain ⟨k', u'⟩ := e'
        have h3' : k < k' := h3 (k', u') (by simp)
        by_cases hb : i = k'
        · obtain ⟨-, -, h5⟩ := (sparseWf_cons bound k' u' rest').1 h2
          simp only [sparseErase, hb, if_true]
          exact fun e he => lt_trans h3' (h5 e he)
        · simp [sparseErase, hb, h3']

theorem sparseFind_sparseErase_ne {α : Type} (m : List (Nat × α)) (i j : Nat) (h : j ≠ i) :
    sparseFind (sparseErase m i) j = sparseFind m j := by
  induction m with
  | nil => rfl
  | cons e rest ih =>
    obtain ⟨k, u⟩ := e
    by_cases h2 : i = k
    · subst h2; simp [sparseErase, sparseFind, h]
    · simp [sparseErase, sparseFind, h2, ih]

theorem sparseFind_sparseErase_self {α : Type} (bound : Nat) (m : List (Nat × α)) (i : Nat)
    (h : sparseWf bound m = true) : sparseFind (sparseErase m i) i = none := by
  induction m with
  | nil => rfl
  | cons e rest ih =>
    obtain ⟨k, u⟩ := e
    obtain ⟨-, h2, h3⟩ := (sparseWf_cons bound k u rest).1 h
    by_cases h4 : i = k
    · subst h4
      simpa [sparseErase] using sparseFind_eq_none_of_lt bound rest h2 i h3
    · simp [sparseErase, sparseFind, h4, ih h2]

theorem mem_sparseSet {α : Type} (m : List (Nat × α)) (i : Nat) (v : α) (e : Nat × α)
    (h : e ∈ sparseSet m i v) : e = (i, v) ∨ e ∈ m := by
  induction m with
  | nil => simpa [sparseSet] using h
  | cons e' rest ih =>
    obtain ⟨k, u⟩ := e'
    by_cases h1 : i < k
    · simpa [sparseSet, h1] using h
    · by_cases h2 : i = k
      · simp only [sparseSet, h2, if_false, if_true, lt_irrefl] at h
        rcases List.mem_cons.1 h with h | h
        · exact .inl (h2 ▸ h)
        · exact .inr (List.mem_cons_of_mem _ h)
      · simp only [sparseSet, h1, h2, if_false] at h
        rcases List.mem_cons.1 h with h | h
        · exact .inr (h ▸ List.mem_cons_self)
        · exact (ih h).imp_right (List.mem_cons_of_mem _)

theorem mem_of_mem_sparseErase {α : Type} (m : List (Nat × α)) (i : Nat) (e : Nat × α)
    (h : e ∈ sparseErase m i) : e ∈ m := by
  induction m with
  | nil => simp [sparseErase] at h
  | cons e' rest ih =>
    obtain ⟨k, u⟩ := e'
    by_cases h2 : i = k
    · exact List.mem_cons_of_mem _ (by simpa [sparseErase, h2] using h)
    · simp only [sparseErase, h2, if_false] at h
      rcases List.mem_cons.1 h with h | h
      · exact h ▸ List.mem_cons_self
      · exact List.mem_cons_of_mem _ (ih h)

/-! ### Wave memory -/

theorem waveRead_waveWrite_self (P : Params α) (m : WaveMem) (a : Nat) (f : WaveFrame) (h : a < P.wmemFrames) :
    waveRead P (waveWrite P m a f) a = f := by
  simp [waveRead, waveWrite, h, sparseFind_sparseSet_self]

theorem waveRead_waveWrite_ne (P : Params α) (m : WaveMem) (a b : Nat) (f : WaveFrame) (h : b ≠ a) :
    waveRead P (waveWrite P m a f) b = waveRead P m b := by
  unfold waveRead waveWrite
  by_cases ha : a < P.wmemFrames
  · simp [ha, sparseFind_sparseSet_ne _ _ _ _ h]
  · simp [ha]

theorem waveRead_outside (P : Params α) (m : WaveMem) (a : Nat) (h : P.wmemFrames ≤ a) :
    waveRead P m a = ⟨0, 0⟩ := by
  simp [waveRead, Nat.not_lt.2 h]

/-- A wave write keeps the canonical form. -/
theorem waveWrite_wf (P : Params α) (m : WaveMem) (a : Nat) (f : WaveFrame) (h : Memory.wf P m = true) :
    Memory.wf P (waveWrite P m a f) = true := by
  unfold waveWrite
  split
  · next ha => exact sparseSet_wf _ _ _ _ ha h
  · exact h

/-- Wave memory at reset has the canonical form. -/
theorem reset_wmem_wf (P : Params α) : Memory.wf P (State.resetOf P).wmem = true := rfl

/-! ### Delay memories -/

theorem lineRead_lineWrite_self (len : Nat) (b : Line α) (i : Nat) (v : α) (h : sparseWf len b = true) :
    lineRead (lineWrite b i v) i = v := by
  unfold lineRead lineWrite
  by_cases hv : v = 0
  · simp [hv, sparseFind_sparseErase_self len b i h]
  · simp [hv, sparseFind_sparseSet_self]

theorem lineRead_lineWrite_ne (b : Line α) (i j : Nat) (v : α) (h : j ≠ i) :
    lineRead (lineWrite b i v) j = lineRead b j := by
  unfold lineRead lineWrite
  by_cases hv : v = 0
  · simp [hv, sparseFind_sparseErase_ne _ _ _ h]
  · simp [hv, sparseFind_sparseSet_ne _ _ _ _ h]

/-- A delay-line write keeps the canonical form. -/
theorem lineWrite_wf (len : Nat) (b : Line α) (i : Nat) (v : α) (hi : i < len) (h : lineWf len b = true) :
    lineWf len (lineWrite b i v) = true := by
  simp only [lineWf, Bool.and_eq_true, List.all_eq_true, decide_eq_true_eq] at h ⊢
  unfold lineWrite
  by_cases hv : v = 0
  · simp only [hv, if_true]
    exact ⟨sparseErase_wf _ _ _ h.1, fun e he => h.2 e (mem_of_mem_sparseErase _ _ _ he)⟩
  · simp only [hv, if_false]
    refine ⟨sparseSet_wf _ _ _ _ hi h.1, fun e he => ?_⟩
    rcases mem_sparseSet _ _ _ _ he with rfl | he
    · exact hv
    · exact h.2 e he

/-- A canonical delay line that reads 0 everywhere is the cleared line. -/
theorem lineRead_nil (i : Nat) : lineRead ([] : Line α) i = 0 := rfl

theorem lineWrite_nil_zero (i : Nat) : lineWrite ([] : Line α) i 0 = [] := by simp [lineWrite, sparseErase]

/-! ### Channels, descriptors, owners by index -/

/-- Everything `onChannel` can do: change the one channel, or nothing where there is no such channel. -/
theorem onChannel_cases (s : State α) (c : Nat) (f : Channel α → Channel α) :
    (∃ ch, s.channels[c]? = some ch ∧ s.onChannel c f = { s with channels := s.channels.set c (f ch) }) ∨
      (s.channels[c]? = none ∧ s.onChannel c f = s) := by
  unfold State.onChannel State.channel?
  cases h : s.channels[c]? with
  | none => exact .inr ⟨rfl, rfl⟩
  | some ch => exact .inl ⟨ch, rfl, rfl⟩

theorem onChannel_channels (s : State α) (c : Nat) (f : Channel α → Channel α) (d : Nat) :
    (s.onChannel c f).channels[d]? = if d = c then s.channels[c]?.map f else s.channels[d]? := by
  rcases onChannel_cases s c f with ⟨ch, h, e⟩ | ⟨h, e⟩
  · rw [e]
    have hc : c < s.channels.length := (List.getElem?_eq_some_iff.1 h).1
    by_cases hd : d = c
    · subst hd; simp [hc, (List.getElem?_eq_some_iff.1 h).2]
    · simp [hd, List.getElem?_set_ne (Ne.symm hd)]
  · rw [e]
    by_cases hd : d = c
    · subst hd; simp [h]
    · simp [hd]

theorem onChannel_length (s : State α) (c : Nat) (f : Channel α → Channel α) :
    (s.onChannel c f).channels.length = s.channels.length := by
  rcases onChannel_cases s c f with ⟨ch, -, e⟩ | ⟨-, e⟩ <;> simp [e]

/-- Everything `onDescriptor` can do. -/
theorem onDescriptor_cases (s : State α) (d : Nat) (f : Descriptor → Descriptor) :
    (∃ x, s.wd[d]? = some x ∧ s.onDescriptor d f = { s with wd := s.wd.set d (f x) }) ∨
      (s.wd[d]? = none ∧ s.onDescriptor d f = s) := by
  unfold State.onDescriptor
  cases h : s.wd[d]? with
  | none => exact .inr ⟨rfl, rfl⟩
  | some x => exact .inl ⟨x, rfl, rfl⟩

/-- Everything `onOwner` can do. -/
theorem onOwner_cases (s : State α) (o : Nat) (f : FxUnits α → FxUnits α) :
    (∃ x, s.fx[o]? = some x ∧ s.onOwner o f = { s with fx := s.fx.set o (f x) }) ∨
      (s.fx[o]? = none ∧ s.onOwner o f = s) := by
  unfold State.onOwner
  cases h : s.fx[o]? with
  | none => exact .inr ⟨rfl, rfl⟩
  | some x => exact .inl ⟨x, rfl, rfl⟩

/-! ### Output and stream -/

/-- `Emit` appends exactly the four bytes of the frame. -/
theorem emit_eq (out : List Byte) (l r : Int) : emit out l r = out ++ frameBytes l r := rfl

theorem emit_length (out : List Byte) (l r : Int) : (emit out l r).length = out.length + 4 := by
  simp [emit, frameBytes]

/-- Eight bytes of a word make the word again. -/
theorem decodeBytes_bytesOfWord (w : CmdWord) (rest : List Byte) :
    decodeBytes (bytesOfWord w ++ rest) = some (decodeWord w, rest) := by
  have h : wordOfBytes (w.extractLsb' 0 8) (w.extractLsb' 8 8) (w.extractLsb' 16 8) (w.extractLsb' 24 8)
      (w.extractLsb' 32 8) (w.extractLsb' 40 8) (w.extractLsb' 48 8) (w.extractLsb' 56 8) = w := by
    have key : ∀ i (hi : i < 64) j, j = i → w.getLsbD j = w[i] := by
      rintro i hi j rfl; exact BitVec.getLsbD_eq_getElem hi
    unfold wordOfBytes
    ext i hi
    simp only [BitVec.getElem_append, BitVec.getElem_extractLsb']
    split_ifs <;> exact key i hi _ (by omega)
  simp [bytesOfWord, decodeBytes, h]

/-- Everything `fetchCommand` can do. -/
theorem fetchCommand_eq (s : State) :
    fetchCommand s = (decodeBytes s.stream).map (fun x => (x.1, s.withStream x.2)) := by
  unfold fetchCommand
  cases decodeBytes s.stream with
  | none => rfl
  | some x => obtain ⟨d, rest⟩ := x; rfl

/-- Everything one step can do: a command is executed with its eight bytes taken, a reserved word is passed over, or the block
waits. -/
theorem step_cases (s : State) :
    (∃ i rest, decodeBytes s.stream = some (.instr i, rest) ∧ step s = exec i (s.withStream rest)) ∨
      (∃ r rest, decodeBytes s.stream = some (.reserved r, rest) ∧ step s = .next (s.withStream rest)) ∨
      (decodeBytes s.stream = none ∧ step s = .next s) := by
  unfold step
  rw [fetchCommand_eq]
  cases h : decodeBytes s.stream with
  | none => simp
  | some x =>
    obtain ⟨d, rest⟩ := x
    cases d <;> simp

end Sys2Proof.Machine
end

