-- ==== Sys2Proof/Laws/State.lean ====
section
/-! SUPPORT. One lemma per field per update of the state, so that no later proof unfolds a record update; the updates whose field is
chosen by a match have the same lemmas, proved by the match's cases. -/

namespace Sys2Proof.Machine

set_option Elab.async false
set_option linter.unusedSectionVars false

variable {α : Type} [Field α] [LinearOrder α] [FloorRing α]


/-! ### s.setChannel c ch -/

@[simp] theorem setChannel_master (s : State α) (c : Nat) (ch : Channel α) : (s.setChannel c ch).master = s.master := rfl
@[simp] theorem setChannel_frameCnt (s : State α) (c : Nat) (ch : Channel α) : (s.setChannel c ch).frameCnt = s.frameCnt := rfl
@[simp] theorem setChannel_silenceCnt (s : State α) (c : Nat) (ch : Channel α) : (s.setChannel c ch).silenceCnt = s.silenceCnt := rfl
@[simp] theorem setChannel_outPeakL (s : State α) (c : Nat) (ch : Channel α) : (s.setChannel c ch).outPeakL = s.outPeakL := rfl
@[simp] theorem setChannel_outPeakR (s : State α) (c : Nat) (ch : Channel α) : (s.setChannel c ch).outPeakR = s.outPeakR := rfl
@[simp] theorem setChannel_wptr (s : State α) (c : Nat) (ch : Channel α) : (s.setChannel c ch).wptr = s.wptr := rfl
@[simp] theorem setChannel_channels (s : State α) (c : Nat) (ch : Channel α) : (s.setChannel c ch).channels = s.channels.set c ch := rfl
@[simp] theorem setChannel_wd (s : State α) (c : Nat) (ch : Channel α) : (s.setChannel c ch).wd = s.wd := rfl
@[simp] theorem setChannel_wmem (s : State α) (c : Nat) (ch : Channel α) : (s.setChannel c ch).wmem = s.wmem := rfl
@[simp] theorem setChannel_fx (s : State α) (c : Nat) (ch : Channel α) : (s.setChannel c ch).fx = s.fx := rfl
@[simp] theorem setChannel_out (s : State α) (c : Nat) (ch : Channel α) : (s.setChannel c ch).out = s.out := rfl
@[simp] theorem setChannel_stream (s : State α) (c : Nat) (ch : Channel α) : (s.setChannel c ch).stream = s.stream := rfl

/-! ### s.withStream rest -/

@[simp] theorem withStream_master (s : State) (rest : List Byte) : (s.withStream rest).master = s.master := rfl
@[simp] theorem withStream_frameCnt (s : State) (rest : List Byte) : (s.withStream rest).frameCnt = s.frameCnt := rfl
@[simp] theorem withStream_silenceCnt (s : State) (rest : List Byte) : (s.withStream rest).silenceCnt = s.silenceCnt := rfl
@[simp] theorem withStream_outPeakL (s : State) (rest : List Byte) : (s.withStream rest).outPeakL = s.outPeakL := rfl
@[simp] theorem withStream_outPeakR (s : State) (rest : List Byte) : (s.withStream rest).outPeakR = s.outPeakR := rfl
@[simp] theorem withStream_wptr (s : State) (rest : List Byte) : (s.withStream rest).wptr = s.wptr := rfl
@[simp] theorem withStream_channels (s : State) (rest : List Byte) : (s.withStream rest).channels = s.channels := rfl
@[simp] theorem withStream_wd (s : State) (rest : List Byte) : (s.withStream rest).wd = s.wd := rfl
@[simp] theorem withStream_wmem (s : State) (rest : List Byte) : (s.withStream rest).wmem = s.wmem := rfl
@[simp] theorem withStream_fx (s : State) (rest : List Byte) : (s.withStream rest).fx = s.fx := rfl
@[simp] theorem withStream_out (s : State) (rest : List Byte) : (s.withStream rest).out = s.out := rfl
@[simp] theorem withStream_stream (s : State) (rest : List Byte) : (s.withStream rest).stream = rest := rfl

/-! ### s.withFetchWord nbits w -/

@[simp] theorem withFetchWord_master (s : State) (nbits w : Nat) : (s.withFetchWord nbits w).master = s.master := rfl
@[simp] theorem withFetchWord_frameCnt (s : State) (nbits w : Nat) : (s.withFetchWord nbits w).frameCnt = s.frameCnt := rfl
@[simp] theorem withFetchWord_silenceCnt (s : State) (nbits w : Nat) : (s.withFetchWord nbits w).silenceCnt = s.silenceCnt := rfl
@[simp] theorem withFetchWord_outPeakL (s : State) (nbits w : Nat) : (s.withFetchWord nbits w).outPeakL = s.outPeakL := rfl
@[simp] theorem withFetchWord_outPeakR (s : State) (nbits w : Nat) : (s.withFetchWord nbits w).outPeakR = s.outPeakR := rfl
@[simp] theorem withFetchWord_wptr (s : State) (nbits w : Nat) : (s.withFetchWord nbits w).wptr = s.wptr := rfl
@[simp] theorem withFetchWord_channels (s : State) (nbits w : Nat) : (s.withFetchWord nbits w).channels = s.channels := rfl
@[simp] theorem withFetchWord_wd (s : State) (nbits w : Nat) : (s.withFetchWord nbits w).wd = s.wd := rfl
@[simp] theorem withFetchWord_wmem (s : State) (nbits w : Nat) : (s.withFetchWord nbits w).wmem = s.wmem := rfl
@[simp] theorem withFetchWord_fx (s : State) (nbits w : Nat) : (s.withFetchWord nbits w).fx = s.fx := rfl
@[simp] theorem withFetchWord_out (s : State) (nbits w : Nat) : (s.withFetchWord nbits w).out = s.out := rfl
@[simp] theorem withFetchWord_stream (s : State) (nbits w : Nat) : (s.withFetchWord nbits w).stream = streamWithWord nbits w s.stream := rfl

/-! ### s.emitFrame o -/

@[simp] theorem emitFrame_master (s : State α) (o : Int × Int) : (s.emitFrame o).master = s.master := rfl
@[simp] theorem emitFrame_frameCnt (s : State α) (o : Int × Int) : (s.emitFrame o).frameCnt = wrapSucc s.frameCnt := rfl
@[simp] theorem emitFrame_silenceCnt (s : State α) (o : Int × Int) : (s.emitFrame o).silenceCnt = if o.1 = 0 ∧ o.2 = 0 then satSucc s.silenceCnt else 0 := rfl
@[simp] theorem emitFrame_outPeakL (s : State α) (o : Int × Int) : (s.emitFrame o).outPeakL = max s.outPeakL o.1.natAbs := rfl
@[simp] theorem emitFrame_outPeakR (s : State α) (o : Int × Int) : (s.emitFrame o).outPeakR = max s.outPeakR o.2.natAbs := rfl
@[simp] theorem emitFrame_wptr (s : State α) (o : Int × Int) : (s.emitFrame o).wptr = s.wptr := rfl
@[simp] theorem emitFrame_channels (s : State α) (o : Int × Int) : (s.emitFrame o).channels = s.channels := rfl
@[simp] theorem emitFrame_wd (s : State α) (o : Int × Int) : (s.emitFrame o).wd = s.wd := rfl
@[simp] theorem emitFrame_wmem (s : State α) (o : Int × Int) : (s.emitFrame o).wmem = s.wmem := rfl
@[simp] theorem emitFrame_fx (s : State α) (o : Int × Int) : (s.emitFrame o).fx = s.fx := rfl
@[simp] theorem emitFrame_out (s : State α) (o : Int × Int) : (s.emitFrame o).out = emit s.out o.1 o.2 := rfl
@[simp] theorem emitFrame_stream (s : State α) (o : Int × Int) : (s.emitFrame o).stream = s.stream := rfl

/-! ### rewindOp s -/

@[simp] theorem rewindOp_master (s : State α) : (rewindOp s).master = 127 := rfl
@[simp] theorem rewindOp_frameCnt (s : State α) : (rewindOp s).frameCnt = 0 := rfl
@[simp] theorem rewindOp_silenceCnt (s : State α) : (rewindOp s).silenceCnt = 0 := rfl
@[simp] theorem rewindOp_outPeakL (s : State α) : (rewindOp s).outPeakL = 0 := rfl
@[simp] theorem rewindOp_outPeakR (s : State α) : (rewindOp s).outPeakR = 0 := rfl
@[simp] theorem rewindOp_wptr (s : State α) : (rewindOp s).wptr = s.wptr := rfl
@[simp] theorem rewindOp_channels (s : State α) : (rewindOp s).channels = s.channels.map (fun _ => Channel.reset) := rfl
@[simp] theorem rewindOp_wd (s : State α) : (rewindOp s).wd = s.wd := rfl
@[simp] theorem rewindOp_wmem (s : State α) : (rewindOp s).wmem = s.wmem := rfl
@[simp] theorem rewindOp_fx (s : State α) : (rewindOp s).fx = s.fx.map FxUnits.clear := rfl
@[simp] theorem rewindOp_out (s : State α) : (rewindOp s).out = s.out := rfl
@[simp] theorem rewindOp_stream (s : State α) : (rewindOp s).stream = s.stream := rfl

/-! ### clearMetersOp s -/

@[simp] theorem clearMetersOp_master (s : State α) : (clearMetersOp s).master = s.master := rfl
@[simp] theorem clearMetersOp_frameCnt (s : State α) : (clearMetersOp s).frameCnt = s.frameCnt := rfl
@[simp] theorem clearMetersOp_silenceCnt (s : State α) : (clearMetersOp s).silenceCnt = s.silenceCnt := rfl
@[simp] theorem clearMetersOp_outPeakL (s : State α) : (clearMetersOp s).outPeakL = 0 := rfl
@[simp] theorem clearMetersOp_outPeakR (s : State α) : (clearMetersOp s).outPeakR = 0 := rfl
@[simp] theorem clearMetersOp_wptr (s : State α) : (clearMetersOp s).wptr = s.wptr := rfl
@[simp] theorem clearMetersOp_channels (s : State α) : (clearMetersOp s).channels = s.channels.map (fun ch => { ch with peak := 0 }) := rfl
@[simp] theorem clearMetersOp_wd (s : State α) : (clearMetersOp s).wd = s.wd := rfl
@[simp] theorem clearMetersOp_wmem (s : State α) : (clearMetersOp s).wmem = s.wmem := rfl
@[simp] theorem clearMetersOp_fx (s : State α) : (clearMetersOp s).fx = s.fx := rfl
@[simp] theorem clearMetersOp_out (s : State α) : (clearMetersOp s).out = s.out := rfl
@[simp] theorem clearMetersOp_stream (s : State α) : (clearMetersOp s).stream = s.stream := rfl

/-! ### wavePointerOp addr s -/

@[simp] theorem wavePointerOp_master (addr : Word) (s : State α) : (wavePointerOp addr s).master = s.master := rfl
@[simp] theorem wavePointerOp_frameCnt (addr : Word) (s : State α) : (wavePointerOp addr s).frameCnt = s.frameCnt := rfl
@[simp] theorem wavePointerOp_silenceCnt (addr : Word) (s : State α) : (wavePointerOp addr s).silenceCnt = s.silenceCnt := rfl
@[simp] theorem wavePointerOp_outPeakL (addr : Word) (s : State α) : (wavePointerOp addr s).outPeakL = s.outPeakL := rfl
@[simp] theorem wavePointerOp_outPeakR (addr : Word) (s : State α) : (wavePointerOp addr s).outPeakR = s.outPeakR := rfl
@[simp] theorem wavePointerOp_wptr (addr : Word) (s : State α) : (wavePointerOp addr s).wptr = addr := rfl
@[simp] theorem wavePointerOp_channels (addr : Word) (s : State α) : (wavePointerOp addr s).channels = s.channels := rfl
@[simp] theorem wavePointerOp_wd (addr : Word) (s : State α) : (wavePointerOp addr s).wd = s.wd := rfl
@[simp] theorem wavePointerOp_wmem (addr : Word) (s : State α) : (wavePointerOp addr s).wmem = s.wmem := rfl
@[simp] theorem wavePointerOp_fx (addr : Word) (s : State α) : (wavePointerOp addr s).fx = s.fx := rfl
@[simp] theorem wavePointerOp_out (addr : Word) (s : State α) : (wavePointerOp addr s).out = s.out := rfl
@[simp] theorem wavePointerOp_stream (addr : Word) (s : State α) : (wavePointerOp addr s).stream = s.stream := rfl

/-! ### waveDataOp P left right s -/

@[simp] theorem waveDataOp_master (P : Params α) (left right : BitVec 16) (s : State α) : (waveDataOp P left right s).master = s.master := rfl
@[simp] theorem waveDataOp_frameCnt (P : Params α) (left right : BitVec 16) (s : State α) : (waveDataOp P left right s).frameCnt = s.frameCnt := rfl
@[simp] theorem waveDataOp_silenceCnt (P : Params α) (left right : BitVec 16) (s : State α) : (waveDataOp P left right s).silenceCnt = s.silenceCnt := rfl
@[simp] theorem waveDataOp_outPeakL (P : Params α) (left right : BitVec 16) (s : State α) : (waveDataOp P left right s).outPeakL = s.outPeakL := rfl
@[simp] theorem waveDataOp_outPeakR (P : Params α) (left right : BitVec 16) (s : State α) : (waveDataOp P left right s).outPeakR = s.outPeakR := rfl
@[simp] theorem waveDataOp_wptr (P : Params α) (left right : BitVec 16) (s : State α) : (waveDataOp P left right s).wptr = s.wptr + 1 := rfl
@[simp] theorem waveDataOp_channels (P : Params α) (left right : BitVec 16) (s : State α) : (waveDataOp P left right s).channels = s.channels := rfl
@[simp] theorem waveDataOp_wd (P : Params α) (left right : BitVec 16) (s : State α) : (waveDataOp P left right s).wd = s.wd := rfl
@[simp] theorem waveDataOp_wmem (P : Params α) (left right : BitVec 16) (s : State α) : (waveDataOp P left right s).wmem = waveWrite P s.wmem s.wptr.toNat ⟨left, right⟩ := rfl
@[simp] theorem waveDataOp_fx (P : Params α) (left right : BitVec 16) (s : State α) : (waveDataOp P left right s).fx = s.fx := rfl
@[simp] theorem waveDataOp_out (P : Params α) (left right : BitVec 16) (s : State α) : (waveDataOp P left right s).out = s.out := rfl
@[simp] theorem waveDataOp_stream (P : Params α) (left right : BitVec 16) (s : State α) : (waveDataOp P left right s).stream = s.stream := rfl

/-! ### frameOp P s -/

@[simp] theorem frameOp_master (P : Params α) (s : State α) : (frameOp P s).master = s.master := rfl
@[simp] theorem frameOp_frameCnt (P : Params α) (s : State α) : (frameOp P s).frameCnt = wrapSucc s.frameCnt := rfl
@[simp] theorem frameOp_wptr (P : Params α) (s : State α) : (frameOp P s).wptr = s.wptr := rfl
@[simp] theorem frameOp_channels (P : Params α) (s : State α) : (frameOp P s).channels = (mixBlock P s).2.1 := rfl
@[simp] theorem frameOp_wd (P : Params α) (s : State α) : (frameOp P s).wd = s.wd := rfl
@[simp] theorem frameOp_wmem (P : Params α) (s : State α) : (frameOp P s).wmem = s.wmem := rfl
@[simp] theorem frameOp_fx (P : Params α) (s : State α) : (frameOp P s).fx = (mixBlock P s).2.2 := rfl
@[simp] theorem frameOp_stream (P : Params α) (s : State α) : (frameOp P s).stream = s.stream := rfl

/-! ### s.onChannel c f -/

@[simp] theorem onChannel_master (s : State α) (c : Nat) (f : Channel α → Channel α) : (s.onChannel c f).master = s.master := by
  unfold State.onChannel; split <;> rfl
@[simp] theorem onChannel_frameCnt (s : State α) (c : Nat) (f : Channel α → Channel α) : (s.onChannel c f).frameCnt = s.frameCnt := by
  unfold State.onChannel; split <;> rfl
@[simp] theorem onChannel_silenceCnt (s : State α) (c : Nat) (f : Channel α → Channel α) : (s.onChannel c f).silenceCnt = s.silenceCnt := by
  unfold State.onChannel; split <;> rfl
@[simp] theorem onChannel_outPeakL (s : State α) (c : Nat) (f : Channel α → Channel α) : (s.onChannel c f).outPeakL = s.outPeakL := by
  unfold State.onChannel; split <;> rfl
@[simp] theorem onChannel_outPeakR (s : State α) (c : Nat) (f : Channel α → Channel α) : (s.onChannel c f).outPeakR = s.outPeakR := by
  unfold State.onChannel; split <;> rfl
@[simp] theorem onChannel_wptr (s : State α) (c : Nat) (f : Channel α → Channel α) : (s.onChannel c f).wptr = s.wptr := by
  unfold State.onChannel; split <;> rfl
@[simp] theorem onChannel_wd (s : State α) (c : Nat) (f : Channel α → Channel α) : (s.onChannel c f).wd = s.wd := by
  unfold State.onChannel; split <;> rfl
@[simp] theorem onChannel_wmem (s : State α) (c : Nat) (f : Channel α → Channel α) : (s.onChannel c f).wmem = s.wmem := by
  unfold State.onChannel; split <;> rfl
@[simp] theorem onChannel_fx (s : State α) (c : Nat) (f : Channel α → Channel α) : (s.onChannel c f).fx = s.fx := by
  unfold State.onChannel; split <;> rfl
@[simp] theorem onChannel_out (s : State α) (c : Nat) (f : Channel α → Channel α) : (s.onChannel c f).out = s.out := by
  unfold State.onChannel; split <;> rfl
@[simp] theorem onChannel_stream (s : State α) (c : Nat) (f : Channel α → Channel α) : (s.onChannel c f).stream = s.stream := by
  unfold State.onChannel; split <;> rfl

/-! ### s.onDescriptor d f -/

@[simp] theorem onDescriptor_master (s : State α) (d : Nat) (f : Descriptor → Descriptor) : (s.onDescriptor d f).master = s.master := by
  unfold State.onDescriptor; split <;> rfl
@[simp] theorem onDescriptor_frameCnt (s : State α) (d : Nat) (f : Descriptor → Descriptor) : (s.onDescriptor d f).frameCnt = s.frameCnt := by
  unfold State.onDescriptor; split <;> rfl
@[simp] theorem onDescriptor_silenceCnt (s : State α) (d : Nat) (f : Descriptor → Descriptor) : (s.onDescriptor d f).silenceCnt = s.silenceCnt := by
  unfold State.onDescriptor; split <;> rfl
@[simp] theorem onDescriptor_outPeakL (s : State α) (d : Nat) (f : Descriptor → Descriptor) : (s.onDescriptor d f).outPeakL = s.outPeakL := by
  unfold State.onDescriptor; split <;> rfl
@[simp] theorem onDescriptor_outPeakR (s : State α) (d : Nat) (f : Descriptor → Descriptor) : (s.onDescriptor d f).outPeakR = s.outPeakR := by
  unfold State.onDescriptor; split <;> rfl
@[simp] theorem onDescriptor_wptr (s : State α) (d : Nat) (f : Descriptor → Descriptor) : (s.onDescriptor d f).wptr = s.wptr := by
  unfold State.onDescriptor; split <;> rfl
@[simp] theorem onDescriptor_channels (s : State α) (d : Nat) (f : Descriptor → Descriptor) : (s.onDescriptor d f).channels = s.channels := by
  unfold State.onDescriptor; split <;> rfl
@[simp] theorem onDescriptor_wmem (s : State α) (d : Nat) (f : Descriptor → Descriptor) : (s.onDescriptor d f).wmem = s.wmem := by
  unfold State.onDescriptor; split <;> rfl
@[simp] theorem onDescriptor_fx (s : State α) (d : Nat) (f : Descriptor → Descriptor) : (s.onDescriptor d f).fx = s.fx := by
  unfold State.onDescriptor; split <;> rfl
@[simp] theorem onDescriptor_out (s : State α) (d : Nat) (f : Descriptor → Descriptor) : (s.onDescriptor d f).out = s.out := by
  unfold State.onDescriptor; split <;> rfl
@[simp] theorem onDescriptor_stream (s : State α) (d : Nat) (f : Descriptor → Descriptor) : (s.onDescriptor d f).stream = s.stream := by
  unfold State.onDescriptor; split <;> rfl

/-! ### s.onOwner o f -/

@[simp] theorem onOwner_master (s : State α) (o : Nat) (f : FxUnits α → FxUnits α) : (s.onOwner o f).master = s.master := by
  unfold State.onOwner; split <;> rfl
@[simp] theorem onOwner_frameCnt (s : State α) (o : Nat) (f : FxUnits α → FxUnits α) : (s.onOwner o f).frameCnt = s.frameCnt := by
  unfold State.onOwner; split <;> rfl
@[simp] theorem onOwner_silenceCnt (s : State α) (o : Nat) (f : FxUnits α → FxUnits α) : (s.onOwner o f).silenceCnt = s.silenceCnt := by
  unfold State.onOwner; split <;> rfl
@[simp] theorem onOwner_outPeakL (s : State α) (o : Nat) (f : FxUnits α → FxUnits α) : (s.onOwner o f).outPeakL = s.outPeakL := by
  unfold State.onOwner; split <;> rfl
@[simp] theorem onOwner_outPeakR (s : State α) (o : Nat) (f : FxUnits α → FxUnits α) : (s.onOwner o f).outPeakR = s.outPeakR := by
  unfold State.onOwner; split <;> rfl
@[simp] theorem onOwner_wptr (s : State α) (o : Nat) (f : FxUnits α → FxUnits α) : (s.onOwner o f).wptr = s.wptr := by
  unfold State.onOwner; split <;> rfl
@[simp] theorem onOwner_channels (s : State α) (o : Nat) (f : FxUnits α → FxUnits α) : (s.onOwner o f).channels = s.channels := by
  unfold State.onOwner; split <;> rfl
@[simp] theorem onOwner_wd (s : State α) (o : Nat) (f : FxUnits α → FxUnits α) : (s.onOwner o f).wd = s.wd := by
  unfold State.onOwner; split <;> rfl
@[simp] theorem onOwner_wmem (s : State α) (o : Nat) (f : FxUnits α → FxUnits α) : (s.onOwner o f).wmem = s.wmem := by
  unfold State.onOwner; split <;> rfl
@[simp] theorem onOwner_out (s : State α) (o : Nat) (f : FxUnits α → FxUnits α) : (s.onOwner o f).out = s.out := by
  unfold State.onOwner; split <;> rfl
@[simp] theorem onOwner_stream (s : State α) (o : Nat) (f : FxUnits α → FxUnits α) : (s.onOwner o f).stream = s.stream := by
  unfold State.onOwner; split <;> rfl

/-! ### writeGlobalOp idx data s -/

@[simp] theorem writeGlobalOp_frameCnt (idx : BitVec 8) (data : Word) (s : State α) : (writeGlobalOp idx data s).frameCnt = s.frameCnt := by
  unfold writeGlobalOp; split <;> rfl
@[simp] theorem writeGlobalOp_silenceCnt (idx : BitVec 8) (data : Word) (s : State α) : (writeGlobalOp idx data s).silenceCnt = s.silenceCnt := by
  unfold writeGlobalOp; split <;> rfl
@[simp] theorem writeGlobalOp_outPeakL (idx : BitVec 8) (data : Word) (s : State α) : (writeGlobalOp idx data s).outPeakL = s.outPeakL := by
  unfold writeGlobalOp; split <;> rfl
@[simp] theorem writeGlobalOp_outPeakR (idx : BitVec 8) (data : Word) (s : State α) : (writeGlobalOp idx data s).outPeakR = s.outPeakR := by
  unfold writeGlobalOp; split <;> rfl
@[simp] theorem writeGlobalOp_wptr (idx : BitVec 8) (data : Word) (s : State α) : (writeGlobalOp idx data s).wptr = s.wptr := by
  unfold writeGlobalOp; split <;> rfl
@[simp] theorem writeGlobalOp_channels (idx : BitVec 8) (data : Word) (s : State α) : (writeGlobalOp idx data s).channels = s.channels := by
  unfold writeGlobalOp; split <;> rfl
@[simp] theorem writeGlobalOp_wd (idx : BitVec 8) (data : Word) (s : State α) : (writeGlobalOp idx data s).wd = s.wd := by
  unfold writeGlobalOp; split <;> rfl
@[simp] theorem writeGlobalOp_wmem (idx : BitVec 8) (data : Word) (s : State α) : (writeGlobalOp idx data s).wmem = s.wmem := by
  unfold writeGlobalOp; split <;> rfl
@[simp] theorem writeGlobalOp_fx (idx : BitVec 8) (data : Word) (s : State α) : (writeGlobalOp idx data s).fx = s.fx := by
  unfold writeGlobalOp; split <;> rfl
@[simp] theorem writeGlobalOp_out (idx : BitVec 8) (data : Word) (s : State α) : (writeGlobalOp idx data s).out = s.out := by
  unfold writeGlobalOp; split <;> rfl
@[simp] theorem writeGlobalOp_stream (idx : BitVec 8) (data : Word) (s : State α) : (writeGlobalOp idx data s).stream = s.stream := by
  unfold writeGlobalOp; split <;> rfl

end Sys2Proof.Machine
end

