-- ==== Sys2Proof/Laws/Commands.lean ====
section
/-! SUPPORT. What the command operations can do: the searches of NOTEOFF and PBEND, register and descriptor writes. -/

namespace Sys2Proof.Machine

set_option Elab.async false
set_option linter.unusedSectionVars false

variable {α : Type} [Field α] [LinearOrder α] [FloorRing α]

/-- The voice a NOTEOFF for key `p` looks for (44_channel_commands.md R255). -/
abbrev heldKey (p : BitVec 7) (t : Voice α) : Prop := t.key = p ∧ t.rel = false

/-- NOTEOFF with no held voice of the key changes nothing (R255, condition X3). -/
theorem releaseFirst_none (P : Params α) (p : BitVec 7) (vel : Nat) (vs : List (Voice α)) (h : ∀ t ∈ vs, ¬ heldKey p t) :
    releaseFirst P p vel vs = vs := by
  induction vs with
  | nil => rfl
  | cons t rest ih =>
    have h1 := h t (by simp)
    have h2 := ih fun u hu => h u (by simp [hu])
    simp only [heldKey] at h1
    simp [releaseFirst, h1, h2]

/-- NOTEOFF reaches the lowest slot that holds the key, and no other (R255). -/
theorem releaseFirst_at (P : Params α) (p : BitVec 7) (vel : Nat) (before : List (Voice α)) (t : Voice α) (after : List (Voice α))
    (h : ∀ u ∈ before, ¬ heldKey p u) (ht : heldKey p t) :
    releaseFirst P p vel (before ++ t :: after) =
      before ++ (if t.alwaysSustain then t else t.release P vel) :: after := by
  induction before with
  | nil =>
    simp only [heldKey] at ht
    by_cases ha : t.alwaysSustain <;> simp [releaseFirst, ht, ha]
  | cons u rest ih =>
    have h1 := h u (by simp)
    have h2 := ih fun x hx => h x (by simp [hx])
    simp only [heldKey] at h1
    simp [releaseFirst, h1, h2]

theorem releaseFirst_length (P : Params α) (p : BitVec 7) (vel : Nat) (vs : List (Voice α)) :
    (releaseFirst P p vel vs).length = vs.length := by
  induction vs with
  | nil => rfl
  | cons t rest ih =>
    unfold releaseFirst
    split
    · split <;> rfl
    · simp [ih]

/-- PBEND reaches the voice in the last slot, and no other (R258). -/
theorem bendLast_append (b : α) (before : List (Voice α)) (t : Voice α) :
    bendLast b (before ++ [t]) = before ++ [{ t with bend := b }] := by
  induction before with
  | nil => rfl
  | cons u rest ih =>
    cases rest with
    | nil => rfl
    | cons x xs => simpa [bendLast] using ih

/-- WRCH changes no voice but through SUSTAIN (R260). -/
theorem write_voices (ch : Channel α) (idx : BitVec 8) (data : Word) (h : idx ≠ 0x06) :
    (ch.write idx data).voices = ch.voices := by
  unfold Channel.write
  simp only [h, if_false]
  split
  · rfl
  · next ch' e =>
    revert e
    unfold Channel.writeReg
    split <;> intro e <;> simp only [Option.some.injEq, reduceCtorEq] at e <;> subst e <;> rfl

end Sys2Proof.Machine
end

