-- ==== Sys2Proof/Laws/Frame.lean ====
section
/-! SUPPORT. What the parts of FRAME can do: the voice pass, the channel loop, the effects. -/

namespace Sys2Proof.Machine

set_option Elab.async false
set_option linter.unusedSectionVars false

variable {α : Type} [Field α] [LinearOrder α] [FloorRing α]

/-- The surviving voices of a voice pass: each voice advanced once, in slot order, those that report `Silence` gone (45_frame_mixer.md
R282, R283). -/
theorem voicePass_voices (P : Params α) (mem : WaveMem) (ch : Channel α) (vs : List (Voice α)) (acc : Stereo α) :
    (voicePass P mem ch vs acc).2 = vs.filterMap (fun v => (v.advance P mem ch).map (·.2)) := by
  induction vs generalizing acc with
  | nil => rfl
  | cons v rest ih =>
    cases h : v.advance P mem ch with
    | none => simp [voicePass, h, ih]
    | some x => obtain ⟨o, v'⟩ := x; simp [voicePass, h, ih]

/-- The sum of a voice pass: the outputs of the surviving voices accumulated in slot order (R281, R282). -/
theorem voicePass_sum (P : Params α) (mem : WaveMem) (ch : Channel α) (vs : List (Voice α)) (acc : Stereo α) :
    (voicePass P mem ch vs acc).1 =
      (vs.filterMap (fun v => (v.advance P mem ch).map (·.1))).foldl (fun a o => a.add P.num o) acc := by
  induction vs generalizing acc with
  | nil => rfl
  | cons v rest ih =>
    cases h : v.advance P mem ch with
    | none => simp [voicePass, h, ih]
    | some x => obtain ⟨o, v'⟩ := x; simp [voicePass, h, ih]

/-- The channels after the channel loop of a SHARED block: each channel mixed on its own (R280, R281). -/
theorem mixShared_channels (P : Params α) (mem : WaveMem) (chs : List (Channel α)) (dry : Stereo α) (b : Buses α) :
    (mixShared P mem chs dry b).2.2 = chs.map (fun ch => (ch.mix P mem).2) := by
  induction chs generalizing dry b with
  | nil => rfl
  | cons ch rest ih => simp [mixShared, ih]

/-- The channels after the channel loop of a PRIVATE block (R280, R281, R291). -/
theorem mixPrivate_channels (P : Params α) (mem : WaveMem) (chs : List (Channel α)) (fx : List (FxUnits α)) (dry : Stereo α) :
    (mixPrivate P mem chs fx dry).2.1 = chs.map (fun ch => (ch.mix P mem).2) := by
  induction chs generalizing fx dry with
  | nil => rfl
  | cons ch rest ih => cases fx <;> simp [mixPrivate, ih]

/-- The channels after a FRAME: each channel mixed on its own, whatever the topology (R281). -/
theorem mixBlock_channels (P : Params α) (s : State α) :
    (mixBlock P s).2.1 = s.channels.map (fun ch => (ch.mix P s.wmem).2) := by
  unfold mixBlock
  cases P.topology with
  | shared => exact mixShared_channels P s.wmem s.channels Stereo.zero Buses.zero
  | priv => exact mixPrivate_channels P s.wmem s.channels s.fx Stereo.zero

/-- A channel after its mix: its live voices and its meter may change, nothing else (R280). -/
theorem mix_channel (P : Params α) (mem : WaveMem) (ch : Channel α) :
    (ch.mix P mem).2 =
      { ch with
        voices := ch.voices.filterMap (fun v => (v.advance P mem ch).map (·.2))
        peak := max ch.peak (chanPeak (ch.mix P mem).1) } := by
  simp [Channel.mix, voicePass_voices]

/-- The output stream after a FRAME: four bytes more (R292). -/
theorem frameOp_out (P : Params α) (s : State α) :
    (frameOp P s).out =
      s.out ++ frameBytes (frameOf P s.master (mixBlock P s).1).1 (frameOf P s.master (mixBlock P s).1).2 := rfl

/-- What a FRAME does as one equation: channels and effects of the mix, then the emission (R280). -/
theorem frameOp_eq (P : Params α) (s : State α) :
    frameOp P s =
      ({ s with channels := (mixBlock P s).2.1, fx := (mixBlock P s).2.2 } : State α).emitFrame
        (frameOf P s.master (mixBlock P s).1) := rfl

/-- `advance` answers `Silence` exactly for a terminated voice (40_voice.md R130, R131). -/
theorem advance_eq_none (P : Params α) (mem : WaveMem) (ch : Channel α) (v : Voice α) :
    v.advance P mem ch = none ↔ v.terminated P = true := by
  unfold Voice.advance
  split <;> simp_all

/-- What `advance` answers for a voice that goes on (R131). -/
theorem advance_eq_some (P : Params α) (mem : WaveMem) (ch : Channel α) (v : Voice α) (h : v.terminated P = false) :
    v.advance P mem ch =
      some ((v.output P mem).1, ({ v with tone := (v.output P mem).2 } : Voice α).moveOn P ch (v.frequency P.num)) := by
  simp [Voice.advance, h]

end Sys2Proof.Machine
end

