-- ==== Sys2Proof/Laws/PerInstr.lean ====
section
/-! SUPPORT. The family EncodesRow: the command word of a command matches the row of the opcode map (30_encoding.md R115) its mnemonic
names. -/

namespace Sys2Proof.Laws.EncodesRow

set_option Elab.async false

/-- The encoded word hits a row of the map with the command's mnemonic. -/
def Statement (i : Instr) : Prop := ∃ r ∈ opcodeMap, r.mnemonic = mnemonicOf i ∧ r.hits (encode i)

/-- The fields of an encoded command are the fields it was encoded from (R101). -/
theorem fieldsOf_wordOf (f : Fields) : fieldsOf (wordOf f) = f := by
  obtain ⟨op, a, b, z, data⟩ := f
  simp only [fieldsOf, wordOf, Fields.mk.injEq]
  have key : ∀ {n : Nat} (x : BitVec n) i (hi : i < n) j, j = i → x.getLsbD j = x[i] := by
    rintro n x i hi j rfl; exact BitVec.getLsbD_eq_getElem hi
  refine ⟨?_, ?_, ?_, ?_, ?_⟩ <;> ext i hi <;>
    simp only [BitVec.getElem_extractLsb', BitVec.getLsbD_append] <;>
    split_ifs <;> first | omega | exact key _ i hi _ (by omega)

/-- Two words with the same fields are the same word (R101). -/
theorem wordOf_fieldsOf (w : CmdWord) : wordOf (fieldsOf w) = w := by
  have key : ∀ i (hi : i < 64) j, j = i → w.getLsbD j = w[i] := by
    rintro i hi j rfl; exact BitVec.getLsbD_eq_getElem hi
  unfold wordOf fieldsOf
  ext i hi
  simp only [BitVec.getElem_append, BitVec.getElem_extractLsb']
  split_ifs <;> exact key i hi _ (by omega)

/-- Masking two joined bit strings masks each. -/
theorem append_and {m n : Nat} (a c : BitVec m) (b d : BitVec n) : (a ++ b) &&& (c ++ d) = (a &&& c) ++ (b &&& d) := by
  ext i hi
  simp only [BitVec.getElem_and, BitVec.getElem_append]
  split <;> simp

/-- Masking a word masks its fields. -/
theorem wordOf_and (f g : Fields) :
    wordOf f &&& wordOf g = wordOf ⟨f.op &&& g.op, f.a &&& g.a, f.b &&& g.b, f.z &&& g.z, f.data &&& g.data⟩ := by
  show (f.op ++ (f.a ++ (f.b ++ (f.z ++ f.data)))) &&& (g.op ++ (g.a ++ (g.b ++ (g.z ++ g.data)))) = _
  rw [append_and, append_and, append_and, append_and]
  rfl

/-- A row hits a word when its mask and match, read as fields, hit the word's fields. -/
theorem hits_of_fields (r : OpcodeRow) (m k f : Fields) (hm : r.mask = wordOf m) (hk : r.matchBits = wordOf k)
    (h : (⟨f.op &&& m.op, f.a &&& m.a, f.b &&& m.b, f.z &&& m.z, f.data &&& m.data⟩ : Fields) = k) :
    r.hits (wordOf f) := by
  unfold OpcodeRow.hits
  rw [hm, hk, wordOf_and, h]

/-- The must-be-zero bits of format K (R103) are zero in its data. -/
theorem dataK_and (p v : BitVec 7) : dataK p v &&& 0xFFFF8080#32 = 0 := by
  have e : (0xFFFF8080#32) = BitVec.allOnes 17 ++ ((0 : BitVec 7) ++ (BitVec.allOnes 1 ++ (0 : BitVec 7))) := by decide
  rw [e]
  show ((0 : BitVec 17) ++ (v ++ ((0 : BitVec 1) ++ p))) &&& _ = _
  rw [append_and, append_and, append_and]
  simp

/-- The must-be-zero bits of format X (R105) are zero in its data. -/
theorem dataX_and (depth : BitVec 7) : dataX depth &&& 0xFFFFFF80#32 = 0 := by
  have e : (0xFFFFFF80#32) = BitVec.allOnes 25 ++ (0 : BitVec 7) := by decide
  rw [e]
  show ((0 : BitVec 25) ++ depth) &&& _ = _
  rw [append_and]
  simp

theorem nop : Statement .nop := ⟨_, List.mem_of_getElem? (i := 0) rfl, rfl, by unfold OpcodeRow.hits; decide⟩

theorem frame : Statement .frame := ⟨_, List.mem_of_getElem? (i := 1) rfl, rfl, by unfold OpcodeRow.hits; decide⟩

theorem rewind : Statement .rewind := ⟨_, List.mem_of_getElem? (i := 2) rfl, rfl, by unfold OpcodeRow.hits; decide⟩

theorem mclr : Statement .mclr := ⟨_, List.mem_of_getElem? (i := 3) rfl, rfl, by unfold OpcodeRow.hits; decide⟩

theorem noteon (c : BitVec 8) (p v : BitVec 7) : Statement (.noteon c p v) :=
  ⟨_, List.mem_of_getElem? (i := 4) rfl, rfl,
    hits_of_fields _ ⟨0xFF, 0, 0xFF, 0xFF, 0xFFFF8080⟩ ⟨0x10, 0, 0, 0, 0⟩ _ (by decide) (by decide)
      (by simp [encodeFields, dataK_and])⟩

theorem noteoff (c : BitVec 8) (p v : BitVec 7) : Statement (.noteoff c p v) :=
  ⟨_, List.mem_of_getElem? (i := 5) rfl, rfl,
    hits_of_fields _ ⟨0xFF, 0, 0xFF, 0xFF, 0xFFFF8080⟩ ⟨0x11, 0, 0, 0, 0⟩ _ (by decide) (by decide)
      (by simp [encodeFields, dataK_and])⟩

theorem pbend (c : BitVec 8) (lsb msb : BitVec 7) : Statement (.pbend c lsb msb) :=
  ⟨_, List.mem_of_getElem? (i := 6) rfl, rfl,
    hits_of_fields _ ⟨0xFF, 0, 0xFF, 0xFF, 0xFFFF8080⟩ ⟨0x12, 0, 0, 0, 0⟩ _ (by decide) (by decide)
      (by simp [encodeFields, dataK_and])⟩

theorem wrch (c idx : BitVec 8) (data : Word) : Statement (.wrch c idx data) :=
  ⟨_, List.mem_of_getElem? (i := 7) rfl, rfl,
    hits_of_fields _ ⟨0xFF, 0, 0, 0xFF, 0⟩ ⟨0x20, 0, 0, 0, 0⟩ _ (by decide) (by decide) (by simp [encodeFields])⟩

theorem wrg (idx : BitVec 8) (data : Word) : Statement (.wrg idx data) :=
  ⟨_, List.mem_of_getElem? (i := 8) rfl, rfl,
    hits_of_fields _ ⟨0xFF, 0xFF, 0, 0xFF, 0⟩ ⟨0x21, 0, 0, 0, 0⟩ _ (by decide) (by decide) (by simp [encodeFields])⟩

theorem fxstart (owner u : BitVec 8) (depth : BitVec 7) : Statement (.fxstart owner u depth) :=
  ⟨_, List.mem_of_getElem? (i := 9) rfl, rfl,
    hits_of_fields _ ⟨0xFF, 0, 0, 0xFF, 0xFFFFFF80⟩ ⟨0x30, 0, 0, 0, 0⟩ _ (by decide) (by decide)
      (by simp [encodeFields, dataX_and])⟩

theorem wavptr (addr : Word) : Statement (.wavptr addr) :=
  ⟨_, List.mem_of_getElem? (i := 10) rfl, rfl,
    hits_of_fields _ ⟨0xFF, 0xFF, 0xFF, 0xFF, 0⟩ ⟨0x40, 0, 0, 0, 0⟩ _ (by decide) (by decide) (by simp [encodeFields])⟩

theorem wavdat (left right : BitVec 16) : Statement (.wavdat left right) :=
  ⟨_, List.mem_of_getElem? (i := 11) rfl, rfl,
    hits_of_fields _ ⟨0xFF, 0xFF, 0xFF, 0xFF, 0⟩ ⟨0x41, 0, 0, 0, 0⟩ _ (by decide) (by decide) (by simp [encodeFields])⟩

theorem wdesc (d field : BitVec 8) (data : Word) : Statement (.wdesc d field data) :=
  ⟨_, List.mem_of_getElem? (i := 12) rfl, rfl,
    hits_of_fields _ ⟨0xFF, 0, 0, 0xFF, 0⟩ ⟨0x42, 0, 0, 0, 0⟩ _ (by decide) (by decide) (by simp [encodeFields])⟩

end Sys2Proof.Laws.EncodesRow
end

