-- ==== Sys2Proof/Laws/Voice.lean ====
section
/-! SUPPORT. One lemma per field per update of a voice: what each step of a voice leaves alone and what it writes. -/

namespace Sys2Proof.Machine

set_option Elab.async false
set_option linter.unusedSectionVars false

variable {α : Type} [Field α] [LinearOrder α] [FloorRing α]


/-! ### v.release P vel -/

@[simp] theorem release_tone (P : Params α) (v : Voice α) (vel : Nat) : (v.release P vel).tone = v.tone := rfl
@[simp] theorem release_key (P : Params α) (v : Voice α) (vel : Nat) : (v.release P vel).key = v.key := rfl
@[simp] theorem release_vel (P : Params α) (v : Voice α) (vel : Nat) : (v.release P vel).vel = v.vel := rfl
@[simp] theorem release_bend (P : Params α) (v : Voice α) (vel : Nat) : (v.release P vel).bend = v.bend := rfl
@[simp] theorem release_vibM (P : Params α) (v : Voice α) (vel : Nat) : (v.release P vel).vibM = v.vibM := rfl
@[simp] theorem release_vibDir (P : Params α) (v : Voice α) (vel : Nat) : (v.release P vel).vibDir = v.vibDir := rfl
@[simp] theorem release_portaOff (P : Params α) (v : Voice α) (vel : Nat) : (v.release P vel).portaOff = v.portaOff := rfl
@[simp] theorem release_portaStep (P : Params α) (v : Voice α) (vel : Nat) : (v.release P vel).portaStep = v.portaStep := rfl
@[simp] theorem release_portaOn (P : Params α) (v : Voice α) (vel : Nat) : (v.release P vel).portaOn = v.portaOn := rfl
@[simp] theorem release_phase (P : Params α) (v : Voice α) (vel : Nat) : (v.release P vel).phase = v.phase := rfl
@[simp] theorem release_age (P : Params α) (v : Voice α) (vel : Nat) : (v.release P vel).age = v.age := rfl
@[simp] theorem release_rel (P : Params α) (v : Voice α) (vel : Nat) : (v.release P vel).rel = true := rfl
@[simp] theorem release_relTotal (P : Params α) (v : Voice α) (vel : Nat) : (v.release P vel).relTotal = P.relLen v.tone.variant vel := rfl
@[simp] theorem release_relLeft (P : Params α) (v : Voice α) (vel : Nat) : (v.release P vel).relLeft = releaseBudget P v vel := rfl
@[simp] theorem release_sus (P : Params α) (v : Voice α) (vel : Nat) : (v.release P vel).sus = v.sus := rfl
@[simp] theorem release_relOnce (P : Params α) (v : Voice α) (vel : Nat) : (v.release P vel).relOnce = true := rfl
@[simp] theorem release_soft (P : Params α) (v : Voice α) (vel : Nat) : (v.release P vel).soft = v.soft := rfl

/-! ### v.pedal down -/

@[simp] theorem pedal_tone (v : Voice α) (down : Bool) : (v.pedal down).tone = v.tone := by
  unfold Voice.pedal; split <;> (try split) <;> rfl
@[simp] theorem pedal_key (v : Voice α) (down : Bool) : (v.pedal down).key = v.key := by
  unfold Voice.pedal; split <;> (try split) <;> rfl
@[simp] theorem pedal_vel (v : Voice α) (down : Bool) : (v.pedal down).vel = v.vel := by
  unfold Voice.pedal; split <;> (try split) <;> rfl
@[simp] theorem pedal_bend (v : Voice α) (down : Bool) : (v.pedal down).bend = v.bend := by
  unfold Voice.pedal; split <;> (try split) <;> rfl
@[simp] theorem pedal_vibM (v : Voice α) (down : Bool) : (v.pedal down).vibM = v.vibM := by
  unfold Voice.pedal; split <;> (try split) <;> rfl
@[simp] theorem pedal_vibDir (v : Voice α) (down : Bool) : (v.pedal down).vibDir = v.vibDir := by
  unfold Voice.pedal; split <;> (try split) <;> rfl
@[simp] theorem pedal_portaOff (v : Voice α) (down : Bool) : (v.pedal down).portaOff = v.portaOff := by
  unfold Voice.pedal; split <;> (try split) <;> rfl
@[simp] theorem pedal_portaStep (v : Voice α) (down : Bool) : (v.pedal down).portaStep = v.portaStep := by
  unfold Voice.pedal; split <;> (try split) <;> rfl
@[simp] theorem pedal_portaOn (v : Voice α) (down : Bool) : (v.pedal down).portaOn = v.portaOn := by
  unfold Voice.pedal; split <;> (try split) <;> rfl
@[simp] theorem pedal_phase (v : Voice α) (down : Bool) : (v.pedal down).phase = v.phase := by
  unfold Voice.pedal; split <;> (try split) <;> rfl
@[simp] theorem pedal_age (v : Voice α) (down : Bool) : (v.pedal down).age = v.age := by
  unfold Voice.pedal; split <;> (try split) <;> rfl
@[simp] theorem pedal_rel (v : Voice α) (down : Bool) : (v.pedal down).rel = v.rel := by
  unfold Voice.pedal; split <;> (try split) <;> rfl
@[simp] theorem pedal_relTotal (v : Voice α) (down : Bool) : (v.pedal down).relTotal = v.relTotal := by
  unfold Voice.pedal; split <;> (try split) <;> rfl
@[simp] theorem pedal_relLeft (v : Voice α) (down : Bool) : (v.pedal down).relLeft = v.relLeft := by
  unfold Voice.pedal; split <;> (try split) <;> rfl
@[simp] theorem pedal_relOnce (v : Voice α) (down : Bool) : (v.pedal down).relOnce = v.relOnce := by
  unfold Voice.pedal; split <;> (try split) <;> rfl
@[simp] theorem pedal_soft (v : Voice α) (down : Bool) : (v.pedal down).soft = v.soft := by
  unfold Voice.pedal; split <;> (try split) <;> rfl

/-! ### v.advanceOscillator P f -/

@[simp] theorem advanceOscillator_key (P : Params α) (v : Voice α) (f : α) : (v.advanceOscillator P f).key = v.key := by
  unfold Voice.advanceOscillator; split <;> rfl
@[simp] theorem advanceOscillator_vel (P : Params α) (v : Voice α) (f : α) : (v.advanceOscillator P f).vel = v.vel := by
  unfold Voice.advanceOscillator; split <;> rfl
@[simp] theorem advanceOscillator_bend (P : Params α) (v : Voice α) (f : α) : (v.advanceOscillator P f).bend = v.bend := by
  unfold Voice.advanceOscillator; split <;> rfl
@[simp] theorem advanceOscillator_vibM (P : Params α) (v : Voice α) (f : α) : (v.advanceOscillator P f).vibM = v.vibM := by
  unfold Voice.advanceOscillator; split <;> rfl
@[simp] theorem advanceOscillator_vibDir (P : Params α) (v : Voice α) (f : α) : (v.advanceOscillator P f).vibDir = v.vibDir := by
  unfold Voice.advanceOscillator; split <;> rfl
@[simp] theorem advanceOscillator_portaOff (P : Params α) (v : Voice α) (f : α) : (v.advanceOscillator P f).portaOff = v.portaOff := by
  unfold Voice.advanceOscillator; split <;> rfl
@[simp] theorem advanceOscillator_portaStep (P : Params α) (v : Voice α) (f : α) : (v.advanceOscillator P f).portaStep = v.portaStep := by
  unfold Voice.advanceOscillator; split <;> rfl
@[simp] theorem advanceOscillator_portaOn (P : Params α) (v : Voice α) (f : α) : (v.advanceOscillator P f).portaOn = v.portaOn := by
  unfold Voice.advanceOscillator; split <;> rfl
@[simp] theorem advanceOscillator_age (P : Params α) (v : Voice α) (f : α) : (v.advanceOscillator P f).age = v.age := by
  unfold Voice.advanceOscillator; split <;> rfl
@[simp] theorem advanceOscillator_rel (P : Params α) (v : Voice α) (f : α) : (v.advanceOscillator P f).rel = v.rel := by
  unfold Voice.advanceOscillator; split <;> rfl
@[simp] theorem advanceOscillator_relTotal (P : Params α) (v : Voice α) (f : α) : (v.advanceOscillator P f).relTotal = v.relTotal := by
  unfold Voice.advanceOscillator; split <;> rfl
@[simp] theorem advanceOscillator_relLeft (P : Params α) (v : Voice α) (f : α) : (v.advanceOscillator P f).relLeft = v.relLeft := by
  unfold Voice.advanceOscillator; split <;> rfl
@[simp] theorem advanceOscillator_sus (P : Params α) (v : Voice α) (f : α) : (v.advanceOscillator P f).sus = v.sus := by
  unfold Voice.advanceOscillator; split <;> rfl
@[simp] theorem advanceOscillator_relOnce (P : Params α) (v : Voice α) (f : α) : (v.advanceOscillator P f).relOnce = v.relOnce := by
  unfold Voice.advanceOscillator; split <;> rfl
@[simp] theorem advanceOscillator_soft (P : Params α) (v : Voice α) (f : α) : (v.advanceOscillator P f).soft = v.soft := by
  unfold Voice.advanceOscillator; split <;> rfl

/-! ### v.vibratoStep P ch -/

@[simp] theorem vibratoStep_tone (P : Params α) (ch : Channel α) (v : Voice α) : (v.vibratoStep P ch).tone = v.tone := by
  unfold Voice.vibratoStep; dsimp only; split <;> (try split) <;> rfl
@[simp] theorem vibratoStep_key (P : Params α) (ch : Channel α) (v : Voice α) : (v.vibratoStep P ch).key = v.key := by
  unfold Voice.vibratoStep; dsimp only; split <;> (try split) <;> rfl
@[simp] theorem vibratoStep_vel (P : Params α) (ch : Channel α) (v : Voice α) : (v.vibratoStep P ch).vel = v.vel := by
  unfold Voice.vibratoStep; dsimp only; split <;> (try split) <;> rfl
@[simp] theorem vibratoStep_bend (P : Params α) (ch : Channel α) (v : Voice α) : (v.vibratoStep P ch).bend = v.bend := by
  unfold Voice.vibratoStep; dsimp only; split <;> (try split) <;> rfl
@[simp] theorem vibratoStep_portaOff (P : Params α) (ch : Channel α) (v : Voice α) : (v.vibratoStep P ch).portaOff = v.portaOff := by
  unfold Voice.vibratoStep; dsimp only; split <;> (try split) <;> rfl
@[simp] theorem vibratoStep_portaStep (P : Params α) (ch : Channel α) (v : Voice α) : (v.vibratoStep P ch).portaStep = v.portaStep := by
  unfold Voice.vibratoStep; dsimp only; split <;> (try split) <;> rfl
@[simp] theorem vibratoStep_portaOn (P : Params α) (ch : Channel α) (v : Voice α) : (v.vibratoStep P ch).portaOn = v.portaOn := by
  unfold Voice.vibratoStep; dsimp only; split <;> (try split) <;> rfl
@[simp] theorem vibratoStep_phase (P : Params α) (ch : Channel α) (v : Voice α) : (v.vibratoStep P ch).phase = v.phase := by
  unfold Voice.vibratoStep; dsimp only; split <;> (try split) <;> rfl
@[simp] theorem vibratoStep_age (P : Params α) (ch : Channel α) (v : Voice α) : (v.vibratoStep P ch).age = v.age := by
  unfold Voice.vibratoStep; dsimp only; split <;> (try split) <;> rfl
@[simp] theorem vibratoStep_rel (P : Params α) (ch : Channel α) (v : Voice α) : (v.vibratoStep P ch).rel = v.rel := by
  unfold Voice.vibratoStep; dsimp only; split <;> (try split) <;> rfl
@[simp] theorem vibratoStep_relTotal (P : Params α) (ch : Channel α) (v : Voice α) : (v.vibratoStep P ch).relTotal = v.relTotal := by
  unfold Voice.vibratoStep; dsimp only; split <;> (try split) <;> rfl
@[simp] theorem vibratoStep_relLeft (P : Params α) (ch : Channel α) (v : Voice α) : (v.vibratoStep P ch).relLeft = v.relLeft := by
  unfold Voice.vibratoStep; dsimp only; split <;> (try split) <;> rfl
@[simp] theorem vibratoStep_sus (P : Params α) (ch : Channel α) (v : Voice α) : (v.vibratoStep P ch).sus = v.sus := by
  unfold Voice.vibratoStep; dsimp only; split <;> (try split) <;> rfl
@[simp] theorem vibratoStep_relOnce (P : Params α) (ch : Channel α) (v : Voice α) : (v.vibratoStep P ch).relOnce = v.relOnce := by
  unfold Voice.vibratoStep; dsimp only; split <;> (try split) <;> rfl
@[simp] theorem vibratoStep_soft (P : Params α) (ch : Channel α) (v : Voice α) : (v.vibratoStep P ch).soft = v.soft := by
  unfold Voice.vibratoStep; dsimp only; split <;> (try split) <;> rfl

/-- Vibrato reads the LFO's value and direction and nothing else of a voice (R150). -/
theorem vibratoStep_congr (P : Params α) (ch : Channel α) (u v : Voice α) (h1 : u.vibM = v.vibM) (h2 : u.vibDir = v.vibDir) :
    (u.vibratoStep P ch).vibM = (v.vibratoStep P ch).vibM ∧ (u.vibratoStep P ch).vibDir = (v.vibratoStep P ch).vibDir := by
  unfold Voice.vibratoStep; dsimp only; rw [h1, h2]
  constructor <;> (split <;> (try split) <;> rfl)

/-! ### v.portamentoStep N -/

@[simp] theorem portamentoStep_tone (N : Num α) (v : Voice α) : (v.portamentoStep N).tone = v.tone := by
  unfold Voice.portamentoStep; dsimp only; split <;> (try split) <;> rfl
@[simp] theorem portamentoStep_key (N : Num α) (v : Voice α) : (v.portamentoStep N).key = v.key := by
  unfold Voice.portamentoStep; dsimp only; split <;> (try split) <;> rfl
@[simp] theorem portamentoStep_vel (N : Num α) (v : Voice α) : (v.portamentoStep N).vel = v.vel := by
  unfold Voice.portamentoStep; dsimp only; split <;> (try split) <;> rfl
@[simp] theorem portamentoStep_bend (N : Num α) (v : Voice α) : (v.portamentoStep N).bend = v.bend := by
  unfold Voice.portamentoStep; dsimp only; split <;> (try split) <;> rfl
@[simp] theorem portamentoStep_vibM (N : Num α) (v : Voice α) : (v.portamentoStep N).vibM = v.vibM := by
  unfold Voice.portamentoStep; dsimp only; split <;> (try split) <;> rfl
@[simp] theorem portamentoStep_vibDir (N : Num α) (v : Voice α) : (v.portamentoStep N).vibDir = v.vibDir := by
  unfold Voice.portamentoStep; dsimp only; split <;> (try split) <;> rfl
@[simp] theorem portamentoStep_portaStep (N : Num α) (v : Voice α) : (v.portamentoStep N).portaStep = v.portaStep := by
  unfold Voice.portamentoStep; dsimp only; split <;> (try split) <;> rfl
@[simp] theorem portamentoStep_phase (N : Num α) (v : Voice α) : (v.portamentoStep N).phase = v.phase := by
  unfold Voice.portamentoStep; dsimp only; split <;> (try split) <;> rfl
@[simp] theorem portamentoStep_age (N : Num α) (v : Voice α) : (v.portamentoStep N).age = v.age := by
  unfold Voice.portamentoStep; dsimp only; split <;> (try split) <;> rfl
@[simp] theorem portamentoStep_rel (N : Num α) (v : Voice α) : (v.portamentoStep N).rel = v.rel := by
  unfold Voice.portamentoStep; dsimp only; split <;> (try split) <;> rfl
@[simp] theorem portamentoStep_relTotal (N : Num α) (v : Voice α) : (v.portamentoStep N).relTotal = v.relTotal := by
  unfold Voice.portamentoStep; dsimp only; split <;> (try split) <;> rfl
@[simp] theorem portamentoStep_relLeft (N : Num α) (v : Voice α) : (v.portamentoStep N).relLeft = v.relLeft := by
  unfold Voice.portamentoStep; dsimp only; split <;> (try split) <;> rfl
@[simp] theorem portamentoStep_sus (N : Num α) (v : Voice α) : (v.portamentoStep N).sus = v.sus := by
  unfold Voice.portamentoStep; dsimp only; split <;> (try split) <;> rfl
@[simp] theorem portamentoStep_relOnce (N : Num α) (v : Voice α) : (v.portamentoStep N).relOnce = v.relOnce := by
  unfold Voice.portamentoStep; dsimp only; split <;> (try split) <;> rfl
@[simp] theorem portamentoStep_soft (N : Num α) (v : Voice α) : (v.portamentoStep N).soft = v.soft := by
  unfold Voice.portamentoStep; dsimp only; split <;> (try split) <;> rfl

/-- The glide reads its own fields and nothing else of a voice (R152). -/
theorem portamentoStep_congr (N : Num α) (u v : Voice α) (h1 : u.portaOff = v.portaOff) (h2 : u.portaStep = v.portaStep)
    (h3 : u.portaOn = v.portaOn) :
    (u.portamentoStep N).portaOff = (v.portamentoStep N).portaOff ∧ (u.portamentoStep N).portaOn = (v.portamentoStep N).portaOn := by
  unfold Voice.portamentoStep; dsimp only; rw [h1, h2, h3]
  constructor <;> (split <;> (try split) <;> first | rfl | assumption)

/-- A voice that does not glide keeps its offset (R152). -/
theorem portamentoStep_off (N : Num α) (v : Voice α) (h : v.portaOn = false) : v.portamentoStep N = v := by
  simp [Voice.portamentoStep, h]

/-! ### v.ageAndBudgetStep -/

@[simp] theorem ageAndBudgetStep_tone (v : Voice α) : (v.ageAndBudgetStep).tone = v.tone := rfl
@[simp] theorem ageAndBudgetStep_key (v : Voice α) : (v.ageAndBudgetStep).key = v.key := rfl
@[simp] theorem ageAndBudgetStep_vel (v : Voice α) : (v.ageAndBudgetStep).vel = v.vel := rfl
@[simp] theorem ageAndBudgetStep_bend (v : Voice α) : (v.ageAndBudgetStep).bend = v.bend := rfl
@[simp] theorem ageAndBudgetStep_vibM (v : Voice α) : (v.ageAndBudgetStep).vibM = v.vibM := rfl
@[simp] theorem ageAndBudgetStep_vibDir (v : Voice α) : (v.ageAndBudgetStep).vibDir = v.vibDir := rfl
@[simp] theorem ageAndBudgetStep_portaOff (v : Voice α) : (v.ageAndBudgetStep).portaOff = v.portaOff := rfl
@[simp] theorem ageAndBudgetStep_portaStep (v : Voice α) : (v.ageAndBudgetStep).portaStep = v.portaStep := rfl
@[simp] theorem ageAndBudgetStep_portaOn (v : Voice α) : (v.ageAndBudgetStep).portaOn = v.portaOn := rfl
@[simp] theorem ageAndBudgetStep_phase (v : Voice α) : (v.ageAndBudgetStep).phase = v.phase := rfl
@[simp] theorem ageAndBudgetStep_age (v : Voice α) : (v.ageAndBudgetStep).age = ageSucc v.age := rfl
@[simp] theorem ageAndBudgetStep_rel (v : Voice α) : (v.ageAndBudgetStep).rel = v.rel := rfl
@[simp] theorem ageAndBudgetStep_relTotal (v : Voice α) : (v.ageAndBudgetStep).relTotal = v.relTotal := rfl
@[simp] theorem ageAndBudgetStep_relLeft (v : Voice α) : (v.ageAndBudgetStep).relLeft = if v.rel && !v.sus then v.relLeft - 1 else v.relLeft := rfl
@[simp] theorem ageAndBudgetStep_sus (v : Voice α) : (v.ageAndBudgetStep).sus = v.sus := rfl
@[simp] theorem ageAndBudgetStep_relOnce (v : Voice α) : (v.ageAndBudgetStep).relOnce = v.relOnce := rfl
@[simp] theorem ageAndBudgetStep_soft (v : Voice α) : (v.ageAndBudgetStep).soft = v.soft := rfl

/-! ### One frame of a voice (40_voice.md R131 step 5) -/


/-- A frame moves the tone on as the oscillator does: only a sample's position changes (40_voice.md R131, R148). -/
theorem moveOn_tone (P : Params α) (ch : Channel α) (v : Voice α) (f : α) :
    (v.moveOn P ch f).tone = (v.advanceOscillator P f).tone := by
  unfold Voice.moveOn; simp
/-- A frame moves the phase on as the oscillator does (R134). -/
theorem moveOn_phase (P : Params α) (ch : Channel α) (v : Voice α) (f : α) :
    (v.moveOn P ch f).phase = (v.advanceOscillator P f).phase := by
  unfold Voice.moveOn; simp
/-- A frame moves the vibrato on by one step of R150. -/
theorem moveOn_vibrato (P : Params α) (ch : Channel α) (v : Voice α) (f : α) :
    (v.moveOn P ch f).vibM = (v.vibratoStep P ch).vibM ∧ (v.moveOn P ch f).vibDir = (v.vibratoStep P ch).vibDir := by
  simpa [Voice.moveOn] using vibratoStep_congr P ch (v.advanceOscillator P f) v (by simp) (by simp)
/-- A frame moves the glide on by one step of R152. -/
theorem moveOn_glide (P : Params α) (ch : Channel α) (v : Voice α) (f : α) :
    (v.moveOn P ch f).portaOff = (v.portamentoStep P.num).portaOff ∧ (v.moveOn P ch f).portaOn = (v.portamentoStep P.num).portaOn := by
  simpa [Voice.moveOn] using portamentoStep_congr P.num ((v.advanceOscillator P f).vibratoStep P ch) v (by simp) (by simp) (by simp)
@[simp] theorem moveOn_key (P : Params α) (ch : Channel α) (v : Voice α) (f : α) : (v.moveOn P ch f).key = v.key := by
  simp [Voice.moveOn]
@[simp] theorem moveOn_vel (P : Params α) (ch : Channel α) (v : Voice α) (f : α) : (v.moveOn P ch f).vel = v.vel := by
  simp [Voice.moveOn]
@[simp] theorem moveOn_bend (P : Params α) (ch : Channel α) (v : Voice α) (f : α) : (v.moveOn P ch f).bend = v.bend := by
  simp [Voice.moveOn]
@[simp] theorem moveOn_portaStep (P : Params α) (ch : Channel α) (v : Voice α) (f : α) : (v.moveOn P ch f).portaStep = v.portaStep := by
  simp [Voice.moveOn]
@[simp] theorem moveOn_rel (P : Params α) (ch : Channel α) (v : Voice α) (f : α) : (v.moveOn P ch f).rel = v.rel := by
  simp [Voice.moveOn]
@[simp] theorem moveOn_relTotal (P : Params α) (ch : Channel α) (v : Voice α) (f : α) : (v.moveOn P ch f).relTotal = v.relTotal := by
  simp [Voice.moveOn]
@[simp] theorem moveOn_sus (P : Params α) (ch : Channel α) (v : Voice α) (f : α) : (v.moveOn P ch f).sus = v.sus := by
  simp [Voice.moveOn]
@[simp] theorem moveOn_relOnce (P : Params α) (ch : Channel α) (v : Voice α) (f : α) : (v.moveOn P ch f).relOnce = v.relOnce := by
  simp [Voice.moveOn]
@[simp] theorem moveOn_soft (P : Params α) (ch : Channel α) (v : Voice α) (f : α) : (v.moveOn P ch f).soft = v.soft := by
  simp [Voice.moveOn]
@[simp] theorem moveOn_age (P : Params α) (ch : Channel α) (v : Voice α) (f : α) :
    (v.moveOn P ch f).age = ageSucc v.age := by
  simp [Voice.moveOn]
@[simp] theorem moveOn_relLeft (P : Params α) (ch : Channel α) (v : Voice α) (f : α) :
    (v.moveOn P ch f).relLeft = if v.rel && !v.sus then v.relLeft - 1 else v.relLeft := by
  simp [Voice.moveOn]

end Sys2Proof.Machine
end

