-- ==== Sys2Proof/Tests/Slice0.lean ====
section
/-! SUPPORT. Tests of one step each, against the worked examples and tables of spec/, and for every statement with hypotheses a witness:
a concrete state and operands that meet all of them. -/

namespace Sys2Proof.Tests

set_option Elab.async false

open Sys2Proof.Machine

/-! ### Helpers -/

/-- The state after a command; the reset state where there is none. -/
def after (o : Host.Outcome State Fault Refusal) : State :=
  match o with
  | .next s => s
  | .fault _ => State.reset
  | .refused _ => State.reset

/-- A channel of the running machine at reset. -/
def blank : Channel Rat := Channel.reset

/-- The reset state with channel 0 replaced. -/
def withChannel0 (ch : Channel Rat) : State := { State.reset with channels := ch :: List.replicate 15 Channel.reset }

/-- Channel 0 of a state. -/
def channel0 (s : State) : Channel Rat := s.channels.headD Channel.reset

/-- A voice of key 69 and velocity 100, just created, of tone `tone`. -/
def voiceOf (tone : Tone Rat) : Voice Rat := freshVoice Channel.reset 69 100 tone 0 0 false

/-- A Square or Triangle voice's filters, all open. -/
def openFilter : VoiceFilter Rat := ⟨1, 0, 1 / 8, -1, 1 / 2, 0, 0⟩

/-- A looped sample of 1000 frames at 440 Hz. -/
def loopedSample : SamplePlay Rat := ⟨599 / 2, 0, 1000, 440, true, false, 201 / 2, 1201 / 4⟩

/-- A descriptor of program 0, bank 0, for every key. -/
def fullDescriptor : Descriptor :=
  { Descriptor.reset with valid := 1, baseFreq := 0x01B80000, length := 1000, pitchTo := 127 }

/-- A parameter record with a lawful NUM of simple functions. -/
def toyNum : Num Rat where
  V := fun _ => True
  rnd := fun x => x
  rnd_mem := fun _ => trivial
  piConst := 1
  sin2piFn := fun _ => 0
  cos2piFn := fun _ => 0
  exp2Fn := fun x => (2 : Rat) ^ ⌊x⌋
  expFn := fun _ => 1 / 2
  lnFn := fun _ => 1
  sqrtFn := fun _ => 0

theorem toyNum_exact : ExactNum toyNum := fun _ => rfl

theorem toyNum_lawful : LawfulNum toyNum where
  exp2_zero := by simp [toyNum]
  exp2_succ x := by simp [toyNum, zpow_add₀, mul_comm]
  sin2pi_zero := rfl
  sin2pi_le x := by norm_num [toyNum]
  cos2pi_le x := by norm_num [toyNum]
  exp_pos x _ := by norm_num [toyNum]
  exp_lt_one x _ := by norm_num [toyNum]
  sqrt_nonneg x := le_refl _

theorem toyNum_positive : PositiveNum toyNum where
  pi_pos := by norm_num [toyNum]
  exp2_pos x := by simp only [toyNum]; positivity

/-! ### Decoding: words written out from 30_encoding.md R102 to R106, and 95_test_vectors.md 2.1 -/

theorem test_decode_nop : decodeWord 0x0000000000000000 = .instr .nop := by decide
theorem test_decode_frame : decodeWord 0x0100000000000000 = .instr .frame := by decide
theorem test_decode_rewind : decodeWord 0x0200000000000000 = .instr .rewind := by decide
theorem test_decode_mclr : decodeWord 0x0300000000000000 = .instr .mclr := by decide
theorem test_decode_noteon : decodeWord 0x10FF000000007F7F = .instr (.noteon 255 127 127) := by decide
theorem test_decode_noteoff : decodeWord 0x1100000000004045 = .instr (.noteoff 0 69 64) := by decide
theorem test_decode_pbend : decodeWord 0x1203000000006000 = .instr (.pbend 3 0 96) := by decide
theorem test_decode_wrch : decodeWord 0x20FFFF00FFFFFFFF = .instr (.wrch 255 255 0xFFFFFFFF) := by decide
theorem test_decode_wrg : decodeWord 0x2100000000000040 = .instr (.wrg 0 64) := by decide
theorem test_decode_fxstart : decodeWord 0x30FF030000000000 = .instr (.fxstart 255 3 0) := by decide
theorem test_decode_wavptr : decodeWord 0x4000000000000100 = .instr (.wavptr 256) := by decide
theorem test_decode_wavdat : decodeWord 0x41000000FC1803E8 = .instr (.wavdat 1000 (-1000)) := by decide
theorem test_decode_wdesc : decodeWord 0x42FF0800FFFFFFFF = .instr (.wdesc 255 8 0xFFFFFFFF) := by decide

theorem test_decode_stream_order :
    decodeBytes [0x45, 0x64, 0x00, 0x00, 0x00, 0x00, 0x00, 0x10] = some (.instr (.noteon 0 69 100), []) := by decide

theorem test_decode_reserved :
    ([0x0000000000000001, 0x0100000000000001, 0x1000000000008045, 0x10000000000064C5, 0x1000000100006445,
      0x1000010000006445, 0x2101000000000040, 0x3000020000000080, 0x4001000000000000] : List CmdWord).map decodeWord =
        List.replicate 9 (.reserved .nonZeroField) := by decide

theorem test_decode_unknown :
    decodeWord 0x5000000000000000 = .reserved .unknownOpcode ∧ decodeWord 0xFFFFFFFFFFFFFFFF = .reserved .unknownOpcode := by
  decide

theorem test_decodeTableWord : decodeTableWord 64 0x1000000000006445 = some (.noteon 0 69 100) := by decide

theorem test_assembler :
    assembleLine "NOTEON 0, 69, 100 ; a note".toList = some (.noteon 0 69 100)
      ∧ assembleLine "WRCH 1, VOLUME, 127".toList = some (.wrch 1 3 127)
      ∧ assembleLine "WAVDAT -2, 258".toList = some (.wavdat (-2) 258)
      ∧ assembleLine "WDESC 5, BASEFREQ, 0x01B80000".toList = some (.wdesc 5 5 0x01B80000)
      ∧ assembleLine "FXSTART 0, REVERB, 128".toList = none := by decide

/-! ### WellFormed: an ill-formed term for each check -/

theorem test_illFormed_channel :
    (Instr.noteon 16 60 1).wellFormed Config.params = false ∧ (Instr.noteoff 16 60 1).wellFormed Config.params = false
      ∧ (Instr.pbend 16 0 0).wellFormed Config.params = false ∧ (Instr.wrch 16 0 0).wellFormed Config.params = false := by decide
theorem test_illFormed_index :
    (Instr.wrch 15 0x12 0).wellFormed Config.params = false ∧ (Instr.wrg 0x10 0).wellFormed Config.params = false := by decide
theorem test_illFormed_unit :
    (Instr.fxstart 0 3 1).wellFormed Config.params = false ∧ (Instr.fxstart 0 1 1).wellFormed Config.params = false := by decide
theorem test_illFormed_owner :
    (Instr.fxstart 16 0 1).wellFormed { Config.params with topology := .priv } = false
      ∧ (Instr.fxstart 16 0 1).wellFormed Config.params = true := by decide
theorem test_illFormed_field : (Instr.wdesc 255 8 0).wellFormed Config.params = false := by decide
theorem test_illFormed_descriptor : (Instr.wdesc 8 0 0).wellFormed { Config.params with ndesc := 8 } = false := by decide

theorem test_illFormed_sizes : Params.checkSizes { Config.params with nchan := 257 } = false := by decide
theorem test_illFormed_piano : Params.checkPiano { Config.params with pianoEnv := [(0, 1), (1 / 2, 0)] } = false := by decide +kernel
theorem test_illFormed_voice : Params.checkVoice { Config.params with triSkew := 1 } = false := by decide +kernel
theorem test_illFormed_chorus : Params.checkChorus { Config.params with chTaps := [] } = false := by decide +kernel
theorem test_illFormed_echo : Params.checkEcho { Config.params with echoBase := 0 } = false := by decide +kernel
theorem test_illFormed_reverb : Params.checkReverb { Config.params with apFeedback := 1 } = false := by decide +kernel
/-- R239, U2: a feedback law that is 1 at the reverberance 50 alone, and a NUM that rounds that of depth 64 (6400/127) down to 50. -/
def lawOfOneAtFifty : Params Rat := { Config.defaults toyNum with revFeedback := fun R => if R = 50 then 1 else 0 }
def floorNum : Num Rat := { toyNum with rnd := fun x => (⌊x⌋ : Rat), rnd_mem := fun _ => trivial }
theorem test_illFormed_reverb_rounded : Params.checkReverb { lawOfOneAtFifty with num := floorNum } = false := by decide +kernel
theorem test_outOfRange_reverb : lawOfOneAtFifty.checkReverb = true ∧ ¬ lawOfOneAtFifty.InRange := by
  refine ⟨by decide +kernel, fun h => absurd (h.feedback 50 (by decide +kernel) (by decide +kernel)).2 (by decide +kernel)⟩
theorem test_illFormed_pan : Params.checkPan { Config.params with panL := fun _ => 2 } = false := by decide +kernel

/-! ### One step of each command, from the examples of its rule -/

theorem test_nop : exec .nop State.reset = .next State.reset := rfl

/-- 10_state.md R65, 70_reset_and_hazards.md R383: FRAME right after reset emits (0, 0). -/
theorem test_frame_after_reset : (after (exec .frame State.reset)).out = [0, 0, 0, 0] := by decide +kernel

/-- 95_test_vectors.md S1, frame 1: (558, 567), bytes 2E 02 37 02. -/
theorem test_frame_piano :
    (after (exec .frame (withChannel0 { blank with
      voices := [{ voiceOf .piano with phase := 22 / 2205, age := 1 }] }))).out = [0x2E, 0x02, 0x37, 0x02] := by
  decide +kernel

theorem test_rewind :
    (after (exec .rewind { State.reset with wptr := 7, master := 1, out := [1, 2, 3, 4] })) =
      { State.reset with wptr := 7, out := [1, 2, 3, 4] } := by decide +kernel

theorem test_mclr : (after (exec .mclr { State.reset with outPeakL := 9, frameCnt := 5 })) = { State.reset with frameCnt := 5 } := by
  decide +kernel

/-- R250: NOTEON 0, 69, 100 after reset. -/
theorem test_noteon :
    after (exec (.noteon 0 69 100) State.reset) =
      withChannel0 { blank with voices := [voiceOf .piano], lastPitch := some 69 } := by decide +kernel

/-- R254: from key 60 to key 72 with PORTA_TIME 1. -/
theorem test_noteon_glide :
    ((channel0 (after (exec (.noteon 0 72 100) (withChannel0 { blank with
      portaEn := 1, portaTime := 1, lastPitch := some 60 })))).voices.map (fun v => (v.portaOff, v.portaStep, v.portaOn))) =
        [(-12, -12 / 441, true)] := by decide +kernel

/-- R255: NOTEOFF 0, 69, 64 on a Triangle voice. -/
theorem test_noteoff :
    ((channel0 (after (exec (.noteoff 0 69 64) (withChannel0 { blank with
      voices := [voiceOf (.triangle openFilter)] })))).voices.map (fun v => (v.rel, v.relOnce, v.relTotal, v.relLeft))) =
        [(true, true, 4096, 4096)] := by decide +kernel

/-- R255: NOTEOFF for a key that no voice has changes nothing. -/
theorem test_noteoff_no_match :
    after (exec (.noteoff 0 70 64) (withChannel0 { blank with voices := [voiceOf .piano] })) =
      withChannel0 { blank with voices := [voiceOf .piano] } := by decide +kernel

/-- R258: PBEND lsb 0, msb 96 with BENDRANGE 2 bends the newest voice by one semitone. -/
theorem test_pbend :
    ((channel0 (after (exec (.pbend 0 0 96) (withChannel0 { blank with
      voices := [voiceOf .piano, voiceOf .piano] })))).voices.map (·.bend)) = [0, 1] := by decide +kernel

/-- R260: WRCH 0, VARIANT, 6 stores 2. -/
theorem test_wrch : after (exec (.wrch 0 0 6) State.reset) = withChannel0 { blank with variant := 2 } := by decide +kernel

/-- R262: pedal down does not hold a voice released before. -/
theorem test_wrch_sustain :
    ((channel0 (after (exec (.wrch 0 6 1) (withChannel0 { blank with
      voices := [{ voiceOf .piano with rel := true, relOnce := true }, voiceOf .piano] })))).voices.map (·.sus)) =
        [false, true] := by decide +kernel

/-- R314: WRG MASTER, 200 stores 72. -/
theorem test_wrg : after (exec (.wrg 0 200) State.reset) = { State.reset with master := 72 } := by decide +kernel

/-- R202: FXSTART 0, REVERB, 64 sets depth 64, `fb` = 0.8833230656 and `damp` = 0.3511811024 (to ten places). -/
theorem test_fxstart :
    (after (exec (.fxstart 0 2 64) State.reset)).fx.map (fun x => (x.reverb.depth, (x.reverb.fb * 10 ^ 10 + 1 / 2).floor,
      (x.reverb.damp * 10 ^ 10 + 1 / 2).floor)) = [(64, 8833230656, 3511811024)] := by decide +kernel

theorem test_wavptr : after (exec (.wavptr 0x100) State.reset) = { State.reset with wptr := 0x100 } := by decide +kernel

/-- R316: WAVDAT -2, 258 with WPTR = 7. -/
theorem test_wavdat :
    after (exec (.wavdat (-2) 258) { State.reset with wptr := 7 }) =
      { State.reset with wptr := 8, wmem := [(7, ⟨-2, 258⟩)] } := by decide +kernel

/-- R317: WDESC 5, BASEFREQ, 0x01B80000. -/
theorem test_wdesc :
    (after (exec (.wdesc 5 5 0x01B80000) State.reset)).wd[5]? = some { Descriptor.reset with baseFreq := 0x01B80000 } := by
  decide +kernel

/-! ### Vectors of the rules -/

/-- 20_memory.md R74: the frame (-2, 258). -/
theorem test_frameBytes : frameBytes (-2) 258 = [0xFE, 0xFF, 0x02, 0x01] := by decide

/-- R289. -/
theorem test_toPcm :
    toPcm ((-9 / 10) : Rat) = 0 ∧ toPcm ((-1) : Rat) = -1 ∧ toPcm ((1999 / 1000) : Rat) = 1 ∧ toPcm ((65535 / 2) : Rat) = 32767 ∧ toPcm (40000 : Rat) = 32767
      ∧ toPcm ((-327689 / 10) : Rat) = -32768 := by decide +kernel

/-- R148: from position 299.5 with step 1.5 the loop comes back to 101.25. -/
theorem test_loop_wrap : (loopedSample.advance Numeric.exactNum 660).pos = 405 / 4 := by decide +kernel

/-- R147: at position 2.25 between (1000, -1000) and (2000, -3000). -/
theorem test_sample_read :
    SamplePlay.read Config.params [(2, ⟨1000, -1000⟩), (3, ⟨2000, -3000⟩)] { loopedSample with pos := 9 / 4 } = ⟨1250, -1500⟩ := by
  decide +kernel

/-- R139: the default envelope halfway and near the end of key 69. -/
theorem test_piano_envelope :
    ({ voiceOf .piano with age := 101981 } : Voice Rat).pianoEnv Config.params = 1 / 8
      ∧ ({ voiceOf .piano with age := 203961 } : Voice Rat).pianoEnv Config.params = 1 / 4 / 203962 := by decide +kernel

/-- R141, R142. -/
theorem test_waveforms :
    squareWave Config.params (1 / 100) = 8 / 25 ∧ squareWave Config.params (3 / 5) = -1
      ∧ triangleWave Config.params (1 / 8) = 0 ∧ triangleWave Config.params (1 / 2) = 1 / 3 := by decide +kernel

/-- R211: the five LFO factors at `lfoN` = 0. -/
theorem test_chorus_lfo : Config.params.chTaps.map (tapLfo Config.params 0) = [1 / 2, 7 / 10, 9 / 10, 9 / 10, 7 / 10] := by
  decide +kernel

/-- R237: the first output of an empty all-pass is the negated input. -/
theorem test_allpass : (AllPass.step Config.params 4 AllPass.cleared 3).1 = -3 := by decide +kernel

/-! ### Witnesses: states and operands that meet the hypotheses of each statement, one line a clause where a statement has several -/

theorem witness_DecodeAndEncodeAreInverse : ∃ (w : CmdWord) (i : Instr), decodeWord w = .instr i :=
  ⟨0x10FF000000007F7F, .noteon 255 127 127, by decide⟩

theorem witness_OpcodeMapDecidesTheCommand :
    (⟨"NOTEON", 0x1000000000000000, 0xFF00FFFFFFFF8080⟩ : OpcodeRow) ∈ opcodeMap
      ∧ (⟨"NOTEON", 0x1000000000000000, 0xFF00FFFFFFFF8080⟩ : OpcodeRow).hits 0x10FF000000007F7F := by decide

theorem witness_ReservedWordsExecuteAsNop :
    (∀ r ∈ opcodeMap, ¬ r.hits 0x0100000000000001)
      ∧ ({ State.reset with stream := bytesOfWord 0x0100000000000001 ++ [] } : State).stream = bytesOfWord 0x0100000000000001 ++ []
      ∧ (0x0400000000000000 : CmdWord).extractLsb' 56 8 ∉ definedOpcodes
      ∧ (0x0100000000000001 : CmdWord).extractLsb' 56 8 = (0x0100000000000000 : CmdWord).extractLsb' 56 8
      ∧ (0x0100000000000001 : CmdWord) &&& 0xFFFFFFFFFFFFFFFF ≠ 0x0100000000000000 := by
  refine ⟨by decide, rfl, by decide, by decide, by decide⟩

/-- A command at the front of the stream; the empty stream and the longest partial word. -/
theorem witness_StepRunsTheDecodedCommand :
    decodeBytes (State.reset.withFetchWord 64 0x1000000000006445).stream = some (.instr (.noteon 0 69 100), [])
      ∧ State.reset.stream.length < 8 ∧ ({ State.reset with stream := [0, 0, 0, 0, 0, 0, 1] } : State).stream.length < 8 := by decide

/-- A command, a reserved word and the first byte of a third word. -/
theorem witness_StreamRunIsTheFoldOfItsWords :
    ({ State.reset with stream := streamOfWords [0x1000000000006445, 0xFFFFFFFFFFFFFFFF] ++ [0x45] } : State).stream =
      streamOfWords [0x1000000000006445, 0xFFFFFFFFFFFFFFFF] ++ [0x45] := rfl

theorem witness_FailedIndexChecksChangeNothing :
    (Instr.noteon 16 60 1).wellFormed Config.params = false
      ∧ (Instr.fxstart 16 0 1).wellFormed { Config.params with topology := .priv } = false := by decide

theorem witness_wellFormed_lawful :
    (Config.defaults toyNum).wellFormed = true ∧ ExactNum (Config.defaults toyNum).num ∧ LawfulNum (Config.defaults toyNum).num
      ∧ PositiveNum (Config.defaults toyNum).num := ⟨by decide +kernel, toyNum_exact, toyNum_lawful, toyNum_positive⟩

theorem witness_ResetMeetsTheInvariant : ∃ P : Params Rat, P.wellFormed = true := ⟨Config.defaults toyNum, witness_wellFormed_lawful.1⟩

/-- A state of the running machine with one Piano voice on channel 0 and FRAME at the front of its stream. -/
def playingState : State :=
  { withChannel0 { blank with voices := [voiceOf .piano], lastPitch := some 69 } with
    stream := bytesOfWord 0x0100000000000000 }

theorem playing_voice_inv : VoiceInv Config.params (voiceOf .piano) where
  tone := trivial
  vel := by decide
  bend_low := by decide +kernel
  bend_high := by decide +kernel
  vib_low := by decide +kernel
  vib_high := by decide +kernel
  porta_off := fun _ => rfl
  porta_sign := by intro h; cases h
  porta_low := by decide +kernel
  porta_high := by decide +kernel
  phase_nonneg := by decide +kernel
  phase_lt := by decide +kernel
  age := by decide
  latch := rfl
  budget := le_refl _

theorem playing_channel_inv (ch : Channel Rat) (h : ch ∈ playingState.channels) : ChannelInv Config.params ch := by
  rcases List.mem_cons.1 h with rfl | h
  · have one : ∀ v ∈ [voiceOf .piano], VoiceInv Config.params v := by
      intro v hv
      rw [List.mem_singleton.1 hv]
      exact playing_voice_inv
    exact ⟨by decide, one, by decide, nofun⟩
  · rw [List.eq_of_mem_replicate h]
    exact ⟨by decide, fun v hv => (List.not_mem_nil hv).elim, by decide, fun _ => rfl⟩

theorem playing_fx_inv (x : FxUnits Rat) (h : x ∈ playingState.fx) : FxInv Config.params x := by
  rw [List.eq_of_mem_replicate h]
  constructor
  case combL | combR | apL | apR => repeat' first | exact rfl | exact trivial | decide | refine And.intro ?_ ?_
  all_goals first | rfl | (intro; rfl) | decide

theorem witness_StoredValuesAreRepresentable :
    Representable Config.params ∧ (voiceOf .piano).values ≠ [] ∧ ∀ x ∈ playingState.values, Config.params.num.V x :=
  ⟨⟨trivial, fun _ _ => trivial, fun _ => trivial, fun _ => trivial, fun _ => trivial⟩, by simp [Voice.values], fun _ _ => trivial⟩

theorem witness_StepKeepsTheInvariant : playingState.Inv ∧ ∃ t, step playingState = .next t :=
  ⟨⟨rfl, playing_channel_inv, List.length_replicate, rfl, rfl, playing_fx_inv, by decide, by decide, rfl⟩, _, rfl⟩

theorem witness_CommandsKeepTheInvariantOfAnyBuild :
    (Config.defaults toyNum).wellFormed = true ∧ ExactNum (Config.defaults toyNum).num ∧ LawfulNum (Config.defaults toyNum).num
      ∧ PositiveNum (Config.defaults toyNum).num
      ∧ StateInv (Config.defaults toyNum) { State.resetOf (Config.defaults toyNum) with channels := List.replicate 16 Channel.reset } := by
  refine ⟨witness_wellFormed_lawful.1, toyNum_exact, toyNum_lawful, toyNum_positive, rfl, fun ch h => ?_, List.length_replicate, rfl, rfl, fun x h => ?_,
    by decide, by decide, rfl⟩
  · rw [List.eq_of_mem_replicate h]
    exact ⟨by decide, fun v hv => (List.not_mem_nil hv).elim, by decide, fun _ => rfl⟩
  · rw [List.eq_of_mem_replicate h]
    constructor
    case combL | combR | apL | apR => repeat' first | exact rfl | exact trivial | decide | refine And.intro ?_ ?_
    all_goals first | rfl | (intro; rfl) | decide

theorem witness_GlobalStateHasItsWriters : exec (.wavptr 0xFFFFFFFF) State.reset = .next { State.reset with wptr := 0xFFFFFFFF } := rfl

/-- The last register of the last channel, and a command that adds a voice beside a live one. -/
theorem witness_ChannelStateHasItsWriters :
    Completes (.wrch 15 0x11 127) State.reset ∧ State.reset.channels[15]? = some Channel.reset
      ∧ Completes (.noteon 0 69 100) playingState
      ∧ (channel0 playingState).voices[0]? = some (voiceOf .piano) := ⟨⟨_, rfl⟩, by decide, ⟨_, rfl⟩, rfl⟩

/-- The clauses of WAVDAT at the last frame of wave memory and one beyond it. -/
theorem witness_WavdatWritesOneFrame :
    ({ State.reset with wptr := 0x000FFFFF } : State).wptr.toNat < 2 ^ 20
      ∧ 2 ^ 20 ≤ ({ State.reset with wptr := 0x00100000 } : State).wptr.toNat := by decide

/-- A load that ends one frame beyond the memory, and one that starts there. -/
theorem witness_WavloadFillsConsecutiveFrames :
    (0x000FFFFF : Word).toNat + ([(1, 2), (3, 4)] : List (BitVec 16 × BitVec 16)).length ≤ 2 ^ 32
      ∧ ([(1, 2), (3, 4)] : List (BitVec 16 × BitVec 16))[0]? = some (1, 2) ∧ (0x000FFFFF : Word).toNat + 0 < 2 ^ 20
      ∧ 2 ^ 20 ≤ (0x00100000 : Word).toNat := by decide

/-- The last descriptor and field, and the first field that is not there. -/
theorem witness_WdescWritesOneField :
    State.reset.wd[(255 : BitVec 8).toNat]? = some Descriptor.reset ∧ (7 : BitVec 8).toNat ≤ 7 ∧ 7 < (8 : BitVec 8).toNat
      ∧ ({ Config.params with ndesc := 8 } : Params Rat).ndesc ≤ (8 : BitVec 8).toNat :=
  ⟨List.getElem?_replicate_of_lt (by decide), by decide, by decide, by decide⟩

theorem witness_DescWritesAWholeDescriptor : State.reset.wd.length = 256 := List.length_replicate

theorem witness_RewindIsResetWithPartsPutBack : State.reset.channels.length = 16 := by decide

/-- Each unit of a build that has an echo and one owner per channel, the last owner, and the checks that fail. -/
theorem witness_FxstartStartsOneUnit :
    let P : Params Rat := { Config.params with hasEcho := true, topology := .priv }
    P.hasUnit 0 = true ∧ P.hasUnit 1 = true ∧ P.hasUnit 2 = true ∧ P.hasUnit 3 = false ∧ P.hasOwner 15 = true
      ∧ P.hasOwner 16 = false ∧ (State.resetOf P).fx.length = P.owners ∧ Config.params.hasUnit 1 = false
      ∧ Config.params.hasUnit 2 = true ∧ Config.params.hasOwner 255 = true ∧ State.reset.fx.length = Config.params.owners := by
  decide

theorem witness_ReverbCoefficientsAreStable :
    (Config.defaults toyNum).wellFormed = true ∧ (1 : BitVec 7) ≠ 0 ∧ (127 : BitVec 7) ≠ 0 :=
  ⟨witness_wellFormed_lawful.1, by decide, by decide⟩

/-- A channel of variant Triangle with 31 voices, its last free slot, gliding. -/
def gliding : Channel Rat :=
  { blank with
    variant := 2, portaEn := 1, portaTime := 1, lastPitch := some 60, voices := List.replicate 31 (voiceOf .piano) }

theorem witness_NoteonAllocatesAProceduralVoice :
    (0 : BitVec 8).toNat < 16 ∧ (withChannel0 gliding).channels[(0 : BitVec 8).toNat]? = some gliding ∧ (127 : BitVec 7) ≠ 0
      ∧ gliding.nv < 32 ∧ gliding.variant ≠ 3 ∧ Glides gliding 72 60 ∧ ¬ Glides gliding 60 60 := by
  refine ⟨by decide, rfl, by decide, by decide, by decide, by decide, by decide⟩

/-- A channel of variant Sampled. -/
def sampledChannel : Channel Rat := { blank with variant := 3 }

theorem witness_NoteonAllocatesASampledVoice :
    ({ withChannel0 sampledChannel with wd := [Descriptor.reset] ++ fullDescriptor :: [] } : State).channels[(0 : BitVec 8).toNat]? =
        some sampledChannel
      ∧ (1 : BitVec 7) ≠ 0 ∧ sampledChannel.nv < 32 ∧ sampledChannel.variant = 3
      ∧ (∀ x ∈ [Descriptor.reset], ¬ DescriptorMatches sampledChannel 127 x) ∧ DescriptorMatches sampledChannel 127 fullDescriptor := by
  refine ⟨rfl, by decide, by decide, by decide, by decide, by decide⟩

/-- A full channel, a key without a descriptor, and the first channel that is not there. -/
theorem witness_NoteonIsDroppedOrReleases :
    32 ≤ ({ blank with voices := List.replicate 32 (voiceOf .piano) } : Channel Rat).nv
      ∧ (sampledChannel.variant = 3 ∧ ∀ x ∈ State.reset.wd, ¬ DescriptorMatches sampledChannel 60 x)
      ∧ 16 ≤ (16 : BitVec 8).toNat := by
  refine ⟨by decide, ⟨rfl, fun x hx => ?_⟩, by decide⟩
  rw [List.eq_of_mem_replicate hx]
  decide

/-- A voice of another key, a released one, the one to release, and one after it; an always-sustain voice; a key nobody holds. -/
theorem witness_NoteoffReleasesTheLowestSlot :
    (∀ u ∈ [{ voiceOf .piano with key := 60 }, { voiceOf .piano with rel := true }], ¬ Holds 69 u) ∧ Holds 69 (voiceOf .piano)
      ∧ (∀ q, (voiceOf .piano).tone = .sampled q → q.wAlways = false)
      ∧ (∃ q, (voiceOf (.sampled { loopedSample with wAlways := true })).tone = .sampled q ∧ q.wAlways = true)
      ∧ Holds 69 (voiceOf (.sampled { loopedSample with wAlways := true }))
      ∧ (∀ t ∈ [voiceOf .piano], ¬ Holds 70 t) ∧ (15 : BitVec 8).toNat < 16 ∧ 16 ≤ (16 : BitVec 8).toNat := by
  refine ⟨by decide, by decide, ?_, ⟨_, rfl, rfl⟩, by decide, by decide, by decide, by decide⟩
  intro q h; cases h

theorem witness_PbendBendsTheNewestVoice :
    blank.voices = []
      ∧ ({ blank with voices := [voiceOf .piano, voiceOf .piano] } : Channel Rat).voices = [voiceOf .piano] ++ [voiceOf .piano]
      ∧ (15 : BitVec 8).toNat < 16 ∧ State.reset.channels[(15 : BitVec 8).toNat]? = some Channel.reset ∧ 16 ≤ (16 : BitVec 8).toNat := by
  refine ⟨rfl, rfl, by decide, by decide, by decide⟩

/-- The last register and the first index beyond it, the last channel and the first beyond it. -/
theorem witness_WrchWritesOneRegister :
    (0x11 : BitVec 8).toNat ≤ 0x11 ∧ 0x11 < (0x12 : BitVec 8).toNat ∧ (15 : BitVec 8).toNat < 16
      ∧ State.reset.channels[(15 : BitVec 8).toNat]? = some Channel.reset ∧ 16 ≤ (16 : BitVec 8).toNat := by decide

theorem witness_SustainTableHolds :
    (withChannel0 { blank with voices := [voiceOf .piano] }).channels[(0 : BitVec 8).toNat]? =
        some { blank with voices := [voiceOf .piano] }
      ∧ (voiceOf .piano).relOnce = (voiceOf .piano).rel ∧ ∀ q, (voiceOf .piano).tone = .sampled q → q.wAlways = false := by
  refine ⟨rfl, rfl, ?_⟩
  intro q h; cases h

theorem witness_FrameOfTheSharedBlock :
    ExactNum Config.params.num ∧ Config.params.topology = .shared ∧ State.reset.fx = [FxUnits.reset] := ⟨exactNum_exact, rfl, rfl⟩

theorem witness_FrameAdvancesEveryVoiceOnce : ExactNum Config.params.num := exactNum_exact

theorem witness_AdvanceMovesAVoiceOn :
    ExactNum Config.params.num ∧ (voiceOf (.square openFilter)).portaOn = false
      ∧ (∃ o v, (voiceOf (.square openFilter)).advance Config.params [] Channel.reset = some (o, v))
      ∧ ∃ o v, (voiceOf (.sampled loopedSample)).advance Config.params [] Channel.reset = some (o, v) := by
  have h (t : Tone Rat) : (voiceOf t).advance Config.params [] Channel.reset ≠ none ∨ (voiceOf t).terminated Config.params = true := by
    unfold Voice.advance
    split
    · exact .inr ‹_›
    · exact .inl (by simp)
  refine ⟨exactNum_exact, rfl, ?_, ?_⟩
  · rcases h (.square openFilter) with h | h
    · obtain ⟨⟨o, v⟩, e⟩ := Option.ne_none_iff_exists'.1 h; exact ⟨o, v, e⟩
    · exact absurd h (by decide +kernel)
  · rcases h (.sampled loopedSample) with h | h
    · obtain ⟨⟨o, v⟩, e⟩ := Option.ne_none_iff_exists'.1 h; exact ⟨o, v, e⟩
    · exact absurd h (by decide +kernel)

theorem witness_ChannelsDoNotInfluenceEachOther :
    State.reset.channels[1]? = (withChannel0 gliding).channels[1]? ∧ State.reset.wmem = (withChannel0 gliding).wmem
      ∧ State.reset.channels[0]? ≠ (withChannel0 gliding).channels[0]? := by
  refine ⟨rfl, rfl, by decide⟩

theorem witness_PrivateUnitsAreFedByTheirChannelAlone :
    let P : Params Rat := { Config.params with topology := .priv }
    P.topology = .priv ∧ ExactNum P.num ∧ (State.resetOf P).channels[1]? = (withChannel0 gliding).channels[1]?
      ∧ (State.resetOf P).fx[1]? = some FxUnits.reset ∧ (State.resetOf P).fx.length = (State.resetOf P).channels.length := by
  refine ⟨rfl, exactNum_exact, by decide, by decide, by decide⟩

/-- A released voice of variant Square with one frame to play, let go and held, and one whose release has no frame. -/
theorem witness_ReleaseIsALinearRamp :
    let v : Voice Rat := { voiceOf (.square openFilter) with rel := true, relOnce := true, relTotal := 1, relLeft := 1 }
    ExactNum Config.params.num ∧ v.tone.variant = .square ∧ v.rel = true ∧ v.relLeft = v.relTotal ∧ 0 < v.relTotal
      ∧ v.sus = false ∧ ({ v with sus := true } : Voice Rat).sus = true ∧ (voiceOf (.triangle openFilter)).tone.variant = .triangle
      ∧ ({ v with relTotal := 0, relLeft := 0 } : Voice Rat).relLeft = 0 := by
  refine ⟨exactNum_exact, ?_⟩
  decide

/-- A glide of one frame, at its start and right after it, when it has ended. -/
theorem witness_GlideEndsAfterItsFrames :
    let v : Voice Rat := { voiceOf (.square openFilter) with portaOn := true, portaOff := -12, portaStep := -12 / (1 : Nat) }
    ExactNum Config.params.num ∧ v.portaOn = true ∧ v.portaOff ≠ 0 ∧ 0 < 1 ∧ v.portaStep = v.portaOff / (1 : Nat)
      ∧ v.afterFrames Config.params [] Channel.reset 0 = some v
      ∧ ∃ w, v.afterFrames Config.params [] Channel.reset 1 = some w := by
  refine ⟨exactNum_exact, rfl, by decide +kernel, by decide, rfl, rfl, Option.isSome_iff_exists.1 (by decide +kernel)⟩

theorem witness_UnreleasedVoicesPlayOn :
    (voiceOf .piano).tone = .piano ∧ (voiceOf .piano).rel = false ∧ (voiceOf .piano).age = 0
      ∧ (voiceOf (.square openFilter)).tone.variant = .square ∧ (voiceOf (.triangle openFilter)).tone.variant = .triangle := by
  refine ⟨rfl, rfl, rfl, rfl, rfl⟩

/-- A loop whose end is exactly the sample's last frame. -/
theorem witness_LoopedSampleNeverEnds :
    let p : SamplePlay Rat := { loopedSample with wLe := 999 }
    ExactNum Config.params.num ∧ p.wLoop = true ∧ p.wLs < p.wLe ∧ p.wLe ≤ (p.wLen.toNat : Rat) - 1 ∧ p.pos < p.wLe := by
  refine ⟨exactNum_exact, by decide +kernel⟩

/-- A step that stays in the loop, one that lands exactly on its end, an unlooped sample and one with its loop points out of order. -/
theorem witness_LoopWrapKeepsTheFraction :
    ExactNum Numeric.exactNum ∧ Numeric.exactNum.KeepsSign ∧ 0 < (1 : Word).toNat ∧ loopedSample.pos + 0 / loopedSample.wFreq < loopedSample.wLe
      ∧ loopedSample.wLs < loopedSample.wLe ∧ loopedSample.wLe ≤ loopedSample.pos + 330 / loopedSample.wFreq
      ∧ ({ loopedSample with wLoop := false } : SamplePlay Rat).wLoop = false
      ∧ ({ loopedSample with wLs := 1201 / 4 } : SamplePlay Rat).wLe ≤ ({ loopedSample with wLs := 1201 / 4 } : SamplePlay Rat).wLs := by
  refine ⟨exactNum_exact, ⟨rfl, fun _ h => h, fun _ h => h⟩, by decide, by decide +kernel⟩

/-- The greatest depth and rate from the middle upward (the move stays inside), from one step below the bound (it lands on it), and
downward from the lower bound. -/
theorem witness_VibratoMovesByItsStepAndTurns :
    let ch : Channel Rat := { blank with modDepth := 127, modSpeed := 127 }
    let d : Rat := (Config.defaults toyNum).vibDepth ch.modDepth.toNat
    let step : Rat := 4 * d * (Config.defaults toyNum).vibRateHz ch.modSpeed.toNat / (Config.defaults toyNum).fs
    (Config.defaults toyNum).wellFormed = true ∧ ExactNum (Config.defaults toyNum).num
      ∧ (-d < (voiceOf .piano).vibM + 1 * step ∧ (voiceOf .piano).vibM + 1 * step < d) ∧ d ≤ (d - step) + 1 * step
      ∧ -d + -1 * step < d ∧ -d + -1 * step ≤ -d :=
  ⟨witness_wellFormed_lawful.1, toyNum_exact, by decide +kernel⟩

theorem witness_FrequencyLawHolds :
    ExactNum toyNum ∧ LawfulNum toyNum ∧ PositiveNum toyNum ∧ (voiceOf .piano).key = 69 ∧ (voiceOf .piano).bend = 0
      ∧ (voiceOf .piano).vibM = 0 ∧ (voiceOf .piano).portaOff = 0 :=
  ⟨toyNum_exact, toyNum_lawful, toyNum_positive, rfl, rfl, rfl, rfl⟩

theorem toy_voice_inv : VoiceInv (Config.defaults toyNum) (voiceOf .piano) where
  tone := trivial
  vel := by decide
  bend_low := by decide +kernel
  bend_high := by decide +kernel
  vib_low := by decide +kernel
  vib_high := by decide +kernel
  porta_off := fun _ => rfl
  porta_sign := by intro h; cases h
  porta_low := by decide +kernel
  porta_high := by decide +kernel
  phase_nonneg := by decide +kernel
  phase_lt := by decide +kernel
  age := by decide
  latch := rfl
  budget := le_refl _

/-- A Piano voice that sounds, the end of a cycle, and an age on a breakpoint of the envelope. -/
theorem witness_WaveformsFollowTheirRulesAndAreBounded :
    ExactNum toyNum ∧ LawfulNum toyNum ∧ (Config.defaults toyNum).wellFormed = true
      ∧ VoiceInv (Config.defaults toyNum) (voiceOf .piano) ∧ (voiceOf .piano).tone = .piano
      ∧ (voiceOf .piano).terminated (Config.defaults toyNum) = false ∧ ((0 : Rat) ≤ 999 / 1000 ∧ (999 / 1000 : Rat) < 1)
      ∧ (Config.defaults toyNum).pianoEnv = [(0, 1), (1 / 8, 1 / 2)] ++ (1 / 4, 1 / 4) :: (1 / 2, 1 / 8) :: [(1, 0)]
      ∧ ((1 : Rat) / 4 ≤ (50991 : Rat) / (Config.defaults toyNum).pianoDur 69
        ∧ (101980 : Rat) / (Config.defaults toyNum).pianoDur 69 < 1 / 2) :=
  ⟨toyNum_exact, toyNum_lawful, witness_wellFormed_lawful.1, toy_voice_inv, rfl, by decide +kernel, by decide +kernel, rfl,
    by decide +kernel⟩

/-- The last position at which the sample still sounds. -/
theorem witness_SampleReadStaysInside :
    let p : SamplePlay Rat := { loopedSample with pos := 998 + 3 / 4 }
    ExactNum Config.params.num ∧ 0 ≤ p.pos ∧ ⌊p.pos⌋ + 1 < (p.wLen.toNat : Int) := by
  refine ⟨exactNum_exact, by decide +kernel⟩

/-- The cutoffs where the clauses meet: 0, FS/2, and one above FS/2. -/
theorem witness_OnePoleFiltersFollowTheirRulesAndStayBounded :
    0 < (Config.defaults toyNum).fs ∧ ExactNum (Config.defaults toyNum).num ∧ PositiveNum (Config.defaults toyNum).num
      ∧ (∀ x ∈ [(1 : Rat), -1, 1 / 2], |x| ≤ 1) ∧ (0 : Rat) ≤ 0
      ∧ ((0 : Rat) < 22050 ∧ (22050 : Rat) ≤ ((Config.defaults toyNum).fs : Rat) / 2) ∧ ((Config.defaults toyNum).fs : Rat) / 2 < 22051 :=
  ⟨by decide, toyNum_exact, toyNum_positive, by decide +kernel, le_refl _, by decide +kernel, by decide +kernel⟩

/-- A centre frequency above FS/2 and a bandwidth of 0, clamped to FS/2 and BW_MIN. -/
theorem witness_ResonatorFollowsItsRulesAndStaysBounded :
    0 < (Config.defaults toyNum).fs ∧ 0 < (Config.defaults toyNum).bwMin ∧ ExactNum (Config.defaults toyNum).num
      ∧ LawfulNum (Config.defaults toyNum).num ∧ PositiveNum (Config.defaults toyNum).num ∧ StrictMono (Rat.castHom ℝ)
      ∧ (∀ x ∈ [(1 : Rat), -1, 1 / 2], |x| ≤ 1)
      ∧ (22050 : Rat) = (if (22051 : Rat) < 0 then 0 else if ((Config.defaults toyNum).fs : Rat) / 2 < 22051
          then ((Config.defaults toyNum).fs : Rat) / 2 else 22051)
      ∧ (1 : Rat) = (if (0 : Rat) < (Config.defaults toyNum).bwMin then (Config.defaults toyNum).bwMin
          else if ((Config.defaults toyNum).fs : Rat) / 2 < 0 then ((Config.defaults toyNum).fs : Rat) / 2 else 0) :=
  ⟨by decide, by decide +kernel, toyNum_exact, toyNum_lawful, toyNum_positive, Rat.cast_strictMono, by decide +kernel, by decide +kernel,
    by decide +kernel⟩

/-- The chorus history at its longest delay, every tap's delay, and the pre-delay, from the cleared state. -/
theorem witness_DelayLinesReplayTheirInput :
    ExactNum Config.params.num ∧ (Chorus.reset : Chorus Rat).hist = [] ∧ (Chorus.reset : Chorus Rat).w < Config.params.chorusLen
      ∧ 1 ≤ 1323 ∧ 1323 ≤ Config.params.chorusLen ∧ (Chorus.reset : Chorus Rat).lfoN < Config.params.chLfoPeriod
      ∧ (∀ t ∈ Config.params.chTaps, 1 ≤ t.delay) ∧ (Reverb.reset : Reverb Rat).pre = []
      ∧ (Reverb.reset : Reverb Rat).pw < Config.params.revPredelay := by
  refine ⟨exactNum_exact, rfl, by decide, by decide, by decide, by decide, by decide, rfl, by decide⟩

theorem witness_EchoIsThreeDelayedCopies :
    ExactNum Config.params.num ∧ Config.params.echoGain = [1 / 2, 1 / 4, 1 / 8] ∧ 0 < Config.params.echoBase
      ∧ (Echo.reset : Echo Rat).histL = [] ∧ (Echo.reset : Echo Rat).histR = []
      ∧ (Echo.reset : Echo Rat).w < Config.params.echoLen := by
  refine ⟨exactNum_exact, rfl, by decide, rfl, rfl, by decide⟩

/-- Coefficients in range, inputs on both sides of the delay, and the default reverb's banks. -/
theorem witness_CombsAndAllPassesFollowTheirRules :
    ExactNum Config.params.num ∧ (0 : Rat) ≤ 49 / 50 ∧ (49 / 50 : Rat) < 1 ∧ (0 : Rat) ≤ 1 / 2 ∧ (1 / 2 : Rat) < 1
      ∧ (∀ x ∈ [(1 : Rat), -1], |x| ≤ 1) ∧ 1 < [(1 : Rat), -1].length
      ∧ Config.params.combLen.length = (Reverb.reset : Reverb Rat).combL.length
      ∧ Config.params.combLen.length = (Reverb.reset : Reverb Rat).combR.length ∧ Config.params.apLen.length = 4
      ∧ (Reverb.reset : Reverb Rat).apL.length = 4 ∧ (Reverb.reset : Reverb Rat).apR.length = 4 :=
  ⟨exactNum_exact, by decide +kernel, by decide +kernel, by decide +kernel, by decide +kernel, by decide +kernel, by decide, rfl, rfl,
    rfl, rfl, rfl⟩

/-- A state that meets the invariant, its last channel, unit and descriptor, and for each space the first thing that is not there. -/
theorem witness_ReadPortShowsTheState :
    playingState.Inv ∧ playingState.channels[(15 : BitVec 8).toNat]? = some Channel.reset ∧ playingState.fx = [FxUnits.reset]
      ∧ playingState.wd[(255 : BitVec 8).toNat]? = some Descriptor.reset
      ∧ (Channel.reset : Channel Rat).lastPitch = none ∧ (channel0 playingState).lastPitch = some 69
      ∧ (15 : BitVec 8).toNat < 16 ∧ 4 ≤ (4 : BitVec 8).toNat ∧ (1 : BitVec 8) ∉ ([0x00, 0x10, 0x11, 0x12, 0x13, 0x14] : List (BitVec 8))
      ∧ 16 ≤ (16 : BitVec 8).toNat ∧ 0x11 < (0x12 : BitVec 8).toNat ∧ (0x1F : BitVec 8).toNat < 0x20 ∧ 0x22 < (0x23 : BitVec 8).toNat
      ∧ 2 < (3 : BitVec 8).toNat ∧ 7 < (8 : BitVec 8).toNat :=
  ⟨witness_StepKeepsTheInvariant.1, by decide, rfl, List.getElem?_replicate_of_lt (by decide), rfl, rfl, by decide, by decide, by decide,
    by decide, by decide, by decide, by decide, by decide, by decide⟩

theorem witness_PowersLogarithmAndRootAreAccurate : |(-1000 : Rat)| ≤ 1000 ∧ (0 : Rat) < 1 / 1000 ∧ (0 : Rat) ≤ 0 := by
  refine ⟨?_, ?_, le_refl _⟩ <;> decide +kernel

/-- U2: the default parameters are in range. -/
theorem test_defaults_wellFormed : Config.params.wellFormed = true := by decide +kernel

end Sys2Proof.Tests
end

section
/-! O6: the values the block stores lie in NUM.V (00_scope.md R8). What a rule stores comes out of a primitive operation, and so out of
`NUM.rnd`, but for 0, a negated value and a parameter's value. -/

namespace Sys2Proof

set_option linter.unusedSectionVars false

section
variable {α : Type} [Field α] [LinearOrder α] [FloorRing α] (N : Num α)

/-! ### The result of a primitive operation is representable (R8) -/

@[simp] theorem Num.V_add (a b : α) : N.V (N.add a b) := N.rnd_mem _
@[simp] theorem Num.V_sub (a b : α) : N.V (N.sub a b) := N.rnd_mem _
@[simp] theorem Num.V_mul (a b : α) : N.V (N.mul a b) := N.rnd_mem _
@[simp] theorem Num.V_div (a b : α) : N.V (N.div a b) := N.rnd_mem _
@[simp] theorem Num.V_frac (x : α) : N.V (N.frac x) := N.rnd_mem _
@[simp] theorem Num.V_exp (x : α) : N.V (N.exp x) := N.rnd_mem _
@[simp] theorem Num.V_sqrt (x : α) : N.V (N.sqrt x) := N.rnd_mem _

end

namespace Machine

variable {α : Type} [Field α] [LinearOrder α] [FloorRing α]

/-! ### What it means that a part of the state holds only values of a set -/

/-- Every entry of a delay memory lies in `V`. -/
def Line.In (V : α → Prop) (b : Line α) : Prop := ∀ x ∈ Line.values b, V x

/-- Both sides of a stereo value lie in `V`. -/
def Stereo.In (V : α → Prop) (s : Stereo α) : Prop := V s.l ∧ V s.r

/-- The three buses that feed an owner's units lie in `V`. -/
def Buses.In (V : α → Prop) (b : Buses α) : Prop := b.chorus.In V ∧ b.echo.In V ∧ b.reverb.In V

/-- The values a voice's variant stores lie in `V`. -/
def Tone.In (V : α → Prop) (t : Tone α) : Prop := ∀ x ∈ t.values, V x

/-- The values a voice stores lie in `V`. -/
structure Voice.In (V : α → Prop) (v : Voice α) : Prop where
  bend : V v.bend
  vibM : V v.vibM
  portaOff : V v.portaOff
  portaStep : V v.portaStep
  phase : V v.phase
  tone : v.tone.In V

/-- The values a channel's voices store lie in `V`. -/
def Channel.In (V : α → Prop) (ch : Channel α) : Prop := ∀ v ∈ ch.voices, v.In V

/-- The values a comb stores lie in `V`. -/
def Comb.In (V : α → Prop) (c : Comb α) : Prop := V c.store ∧ Line.In V c.buf

/-- The values an all-pass stores lie in `V`. -/
def AllPass.In (V : α → Prop) (a : AllPass α) : Prop := Line.In V a.buf

/-- The values an echo stores lie in `V`. -/
def Echo.In (V : α → Prop) (x : Echo α) : Prop := Line.In V x.histL ∧ Line.In V x.histR

/-- The values a reverb stores lie in `V`. -/
structure Reverb.In (V : α → Prop) (v : Reverb α) : Prop where
  fb : V v.fb
  damp : V v.damp
  pre : Line.In V v.pre
  combL : ∀ c ∈ v.combL, c.In V
  combR : ∀ c ∈ v.combR, c.In V
  apL : ∀ a ∈ v.apL, a.In V
  apR : ∀ a ∈ v.apR, a.In V

/-- The values an owner's effect units store lie in `V`. -/
structure FxUnits.In (V : α → Prop) (x : FxUnits α) : Prop where
  chorus : Line.In V x.chorus.hist
  echo : x.echo.In V
  reverb : x.reverb.In V

/-- The values the state stores lie in `V`. -/
structure State.In (V : α → Prop) (s : State α) : Prop where
  channels : ∀ ch ∈ s.channels, ch.In V
  fx : ∀ x ∈ s.fx, x.In V

variable {V : α → Prop}

theorem Tone.in_piano : (Tone.piano : Tone α).In V := fun _ h => nomatch h

theorem Tone.in_square_iff (f : VoiceFilter α) :
    (Tone.square f).In V ↔ V f.lpA ∧ V f.lpY1 ∧ V f.bpA ∧ V f.bpB ∧ V f.bpC ∧ V f.bpY1 ∧ V f.bpY2 := by
  simp [Tone.In, Tone.values]

theorem Tone.in_triangle_iff (f : VoiceFilter α) : (Tone.triangle f).In V ↔ (Tone.square f).In V := Iff.rfl

theorem Tone.in_sampled_iff (p : SamplePlay α) : (Tone.sampled p).In V ↔ V p.pos ∧ V p.wFreq ∧ V p.wLs ∧ V p.wLe := by
  simp [Tone.In, Tone.values]

theorem forall_mem_voiceValues (v : Voice α) : (∀ x ∈ v.values, V x) ↔ v.In V := by
  simp only [Voice.values, List.forall_mem_append, List.forall_mem_cons, List.not_mem_nil, false_implies, implies_true, and_true]
  exact ⟨fun ⟨⟨b, m, o, s, p⟩, t⟩ => ⟨b, m, o, s, p, t⟩, fun ⟨b, m, o, s, p, t⟩ => ⟨⟨b, m, o, s, p⟩, t⟩⟩

theorem forall_mem_fxValues (x : FxUnits α) : (∀ y ∈ x.values, V y) ↔ x.In V := by
  simp only [FxUnits.values, List.forall_mem_append, List.forall_mem_cons, List.forall_mem_flatMap, List.not_mem_nil,
    false_implies, implies_true, and_true]
  constructor
  · rintro ⟨⟨⟨⟨⟨⟨c, eL⟩, eR⟩, p⟩, fb, damp⟩, cL, cR⟩, aL, aR⟩
    exact ⟨c, ⟨eL, eR⟩, ⟨fb, damp, p, cL, cR, aL, aR⟩⟩
  · rintro ⟨c, ⟨eL, eR⟩, ⟨fb, damp, p, cL, cR, aL, aR⟩⟩
    exact ⟨⟨⟨⟨⟨⟨c, eL⟩, eR⟩, p⟩, fb, damp⟩, cL, cR⟩, aL, aR⟩

/-- The predicate by parts is the one by the list of stored values. -/
theorem forall_mem_stateValues (s : State α) : (∀ x ∈ s.values, V x) ↔ s.In V := by
  simp only [State.values, List.forall_mem_append, List.forall_mem_flatMap, forall_mem_voiceValues, forall_mem_fxValues]
  exact ⟨fun ⟨c, x⟩ => ⟨c, x⟩, fun ⟨c, x⟩ => ⟨c, x⟩⟩

/-! ### Delay memories -/

theorem Line.in_nil : Line.In V ([] : Line α) := fun _ h => nomatch h

/-- A delay memory stores after a write what it stored before and the value written. -/
theorem Line.in_write {b : Line α} (i : Nat) {v : α} (hb : Line.In V b) (hv : V v) : Line.In V (lineWrite b i v) := by
  intro x hx
  obtain ⟨e, he, rfl⟩ := List.mem_map.1 hx
  have old (h : e ∈ b) : V e.2 := hb _ (List.mem_map_of_mem h)
  unfold lineWrite at he
  split at he
  · exact old (mem_of_mem_sparseErase _ _ _ he)
  · rcases mem_sparseSet _ _ _ _ he with rfl | h
    · exact hv
    · exact old h

/-! ### A voice in a frame (40_voice.md) -/

section
variable (P : Params α)

/-- The filters keep their coefficients and store results of additions and subtractions (R144, R145). -/
theorem filtered_in {f : VoiceFilter α} (x : α) (h : (Tone.square f).In P.num.V) :
    (Tone.square (f.filtered P.num x).2).In P.num.V := by
  obtain ⟨lpA, -, bpA, bpB, bpC, bpY1, -⟩ := (Tone.in_square_iff f).1 h
  exact (Tone.in_square_iff _).2 ⟨lpA, P.num.V_add _ _, bpA, bpB, bpC, P.num.V_sub _ _, bpY1⟩

/-- What the output of a voice leaves in its tone is representable (R131 step 4). -/
theorem output_tone_in (mem : WaveMem) {v : Voice α} (h : v.tone.In P.num.V) : (v.output P mem).2.In P.num.V := by
  unfold Voice.output
  cases ht : v.tone <;> rw [ht] at h
  case piano => exact h
  case square f => exact filtered_in P _ h
  case triangle f => exact filtered_in P _ h
  case sampled p => exact h

/-- A sample position moves on to a sum (R148). -/
theorem sample_advance_in (f : α) {p : SamplePlay α} (h : (Tone.sampled p).In P.num.V) :
    (Tone.sampled (p.advance P.num f)).In P.num.V := by
  obtain ⟨-, copies⟩ := (Tone.in_sampled_iff p).1 h
  unfold SamplePlay.advance
  dsimp only
  split <;> exact (Tone.in_sampled_iff _).2 ⟨P.num.V_add _ _, copies⟩

theorem advanceOscillator_in (f : α) {v : Voice α} (h : v.In P.num.V) :
    (v.advanceOscillator P f).tone.In P.num.V ∧ P.num.V (v.advanceOscillator P f).phase := by
  unfold Voice.advanceOscillator
  split
  · next p ht => exact ⟨sample_advance_in P f (ht ▸ h.tone), h.phase⟩
  · exact ⟨h.tone, P.num.V_frac _⟩

/-- The vibrato stores a sum, the depth or the negated depth (R150). -/
theorem vibratoStep_in (hP : Representable P) (ch : Channel α) (v : Voice α) : P.num.V (v.vibratoStep P ch).vibM := by
  unfold Voice.vibratoStep
  dsimp only
  split
  · exact hP.vibDepth _
  · split
    · exact hP.neg _ (hP.vibDepth _)
    · exact P.num.V_add _ _

/-- The glide stores a difference or 0 (R152). -/
theorem portamentoStep_in (hP : Representable P) {v : Voice α} (h : P.num.V v.portaOff) :
    P.num.V (v.portamentoStep P.num).portaOff := by
  unfold Voice.portamentoStep
  dsimp only
  split
  · split
    · exact hP.zero
    · exact P.num.V_sub _ _
  · exact h

theorem moveOn_in (hP : Representable P) (ch : Channel α) (f : α) {v : Voice α} (h : v.In P.num.V) :
    (v.moveOn P ch f).In P.num.V where
  bend := by simpa using h.bend
  vibM := (moveOn_vibrato P ch v f).1 ▸ vibratoStep_in P hP ch v
  portaOff := (moveOn_glide P ch v f).1 ▸ portamentoStep_in P hP h.portaOff
  portaStep := by simpa using h.portaStep
  phase := moveOn_phase P ch v f ▸ (advanceOscillator_in P f h).2
  tone := moveOn_tone P ch v f ▸ (advanceOscillator_in P f h).1

/-- A voice that goes on stores representable values after the frame (R131). -/
theorem advance_in (hP : Representable P) (mem : WaveMem) (ch : Channel α) {v v' : Voice α} {o : Stereo α}
    (e : v.advance P mem ch = some (o, v')) (h : v.In P.num.V) : v'.In P.num.V := by
  have live : v.terminated P = false := by
    by_contra ht
    rw [(advance_eq_none P mem ch v).2 (by simpa using ht)] at e
    cases e
  rw [advance_eq_some P mem ch v live] at e
  cases e
  exact moveOn_in P hP ch _ { h with tone := output_tone_in P mem h.tone }

theorem mix_in (hP : Representable P) (mem : WaveMem) {ch : Channel α} (h : ch.In P.num.V) :
    (ch.mix P mem).2.In P.num.V := by
  rw [mix_channel]
  intro v' hv'
  obtain ⟨v, hv, e⟩ := List.mem_filterMap.1 hv'
  obtain ⟨⟨o, w⟩, adv, rfl⟩ := Option.map_eq_some_iff.1 e
  exact advance_in P hP mem ch adv (h v hv)

/-! ### The signals of the mixer (45_frame_mixer.md): sums and products -/

theorem Stereo.in_add (a b : Stereo α) : (a.add P.num b).In P.num.V := ⟨P.num.V_add _ _, P.num.V_add _ _⟩

theorem mix_output_in (mem : WaveMem) (ch : Channel α) : (ch.mix P mem).1.In P.num.V := ⟨P.num.V_mul _ _, P.num.V_mul _ _⟩

theorem Buses.in_zero (hP : Representable P) : (Buses.zero : Buses α).In P.num.V :=
  ⟨⟨hP.zero, hP.zero⟩, ⟨hP.zero, hP.zero⟩, ⟨hP.zero, hP.zero⟩⟩

/-- The send buses of a SHARED block hold 0 or sums (R286). -/
theorem mixShared_buses_in (mem : WaveMem) (chs : List (Channel α)) (dry : Stereo α) {b : Buses α} (h : b.In P.num.V) :
    (mixShared P mem chs dry b).2.1.In P.num.V := by
  induction chs generalizing dry b with
  | nil => exact h
  | cons ch rest ih => exact ih _ ⟨Stereo.in_add P _ _, Stereo.in_add P _ _, Stereo.in_add P _ _⟩

/-! ### The effect units in a frame (42_chorus_echo.md, 43_reverb.md) -/

theorem chorus_process_in (s : Stereo α) {x : Chorus α} (h : Line.In P.num.V x.hist) :
    Line.In P.num.V (x.process P s).2.hist := by
  unfold Chorus.process
  split
  · exact h
  · exact Line.in_write _ h (P.num.V_div _ _)

theorem addChorus_in (dry s : Stereo α) {x : Chorus α} (h : Line.In P.num.V x.hist) :
    Line.In P.num.V (addChorus P dry x s).2.hist := by
  unfold addChorus
  split_ifs
  · exact chorus_process_in P s h
  · exact h

/-- The echo stores its input, which is a bus (R220). -/
theorem echo_process_in {s : Stereo α} (hs : s.In P.num.V) {x : Echo α} (h : x.In P.num.V) : (x.process P s).2.In P.num.V := by
  unfold Echo.process
  split
  · exact h
  · exact ⟨Line.in_write _ h.1 hs.1, Line.in_write _ h.2 hs.2⟩

theorem addEcho_in (dry : Stereo α) {s : Stereo α} (hs : s.In P.num.V) {x : Echo α} (h : x.In P.num.V) :
    (addEcho P dry x s).2.In P.num.V := by
  unfold addEcho
  split_ifs
  · exact echo_process_in P hs h
  · exact h

theorem combBank_in (x fb damp : α) (lens : List Nat) {cs : List (Comb α)} (acc : α) (h : ∀ c ∈ cs, c.In P.num.V) :
    ∀ c ∈ (combBank P.num x fb damp lens cs acc).2, c.In P.num.V := by
  induction lens generalizing cs acc with
  | nil => exact h
  | cons len lens ih =>
    cases cs with
    | nil => exact h
    | cons c cs =>
      obtain ⟨hc, hcs⟩ := List.forall_mem_cons.1 h
      exact List.forall_mem_cons.2 ⟨⟨P.num.V_add _ _, Line.in_write _ hc.2 (P.num.V_add _ _)⟩, ih _ hcs⟩

theorem allPassChain_in (lens : List Nat) {as : List (AllPass α)} (x : α) (h : ∀ a ∈ as, a.In P.num.V) :
    ∀ a ∈ (allPassChain P lens as x).2, a.In P.num.V := by
  induction lens generalizing as x with
  | nil => exact h
  | cons len lens ih =>
    cases as with
    | nil => exact h
    | cons a as =>
      obtain ⟨ha, has⟩ := List.forall_mem_cons.1 h
      exact List.forall_mem_cons.2 ⟨Line.in_write _ ha (P.num.V_add _ _), ih _ has⟩

theorem predelay_in {v : Reverb α} {x0 : α} (hx : P.num.V x0) (h : v.In P.num.V) : (v.predelay P x0).2.In P.num.V := by
  unfold Reverb.predelay
  split
  · exact h
  · exact { h with pre := Line.in_write _ h.pre hx }

theorem reverb_wet_in (s : Stereo α) {v : Reverb α} (h : v.In P.num.V) : (v.wet P s).2.In P.num.V := by
  have hv := predelay_in P (P.num.V_mul (P.num.add s.l s.r) P.revGain) h
  exact { hv with
    combL := combBank_in P _ _ _ _ _ hv.combL
    combR := combBank_in P _ _ _ _ _ hv.combR
    apL := allPassChain_in P _ _ hv.apL
    apR := allPassChain_in P _ _ hv.apR }

theorem reverb_process_in (s : Stereo α) {v : Reverb α} (h : v.In P.num.V) : (v.process P s).2.In P.num.V := by
  unfold Reverb.process
  split
  · exact h
  · exact reverb_wet_in P s h

theorem addReverb_in (dry s : Stereo α) {v : Reverb α} (h : v.In P.num.V) : (addReverb P dry v s).2.In P.num.V := by
  unfold addReverb
  split_ifs
  · exact reverb_process_in P s h
  · exact h

theorem run_in {b : Buses α} (hb : b.In P.num.V) (dry : Stereo α) {x : FxUnits α} (h : x.In P.num.V) :
    (x.run P b dry).2.In P.num.V :=
  ⟨addChorus_in P _ _ h.chorus, addEcho_in P _ hb.2.1 h.echo, addReverb_in P _ _ h.reverb⟩

theorem runShared_in {b : Buses α} (hb : b.In P.num.V) (dry : Stereo α) {fx : List (FxUnits α)} (h : ∀ x ∈ fx, x.In P.num.V) :
    ∀ x ∈ (runShared P fx b dry).2, x.In P.num.V := by
  cases fx with
  | nil => exact h
  | cons x rest =>
    obtain ⟨hx, hrest⟩ := List.forall_mem_cons.1 h
    exact List.forall_mem_cons.2 ⟨run_in P hb dry hx, hrest⟩

theorem mixPrivate_fx_in (mem : WaveMem) (chs : List (Channel α)) {fx : List (FxUnits α)} (dry : Stereo α)
    (h : ∀ x ∈ fx, x.In P.num.V) : ∀ x ∈ (mixPrivate P mem chs fx dry).2.2, x.In P.num.V := by
  induction chs generalizing fx dry with
  | nil => exact h
  | cons ch rest ih =>
    cases fx with
    | nil => exact ih _ h
    | cons x fx =>
      obtain ⟨hx, hfx⟩ := List.forall_mem_cons.1 h
      have hc := mix_output_in P mem ch
      exact List.forall_mem_cons.2 ⟨run_in P ⟨hc, hc, hc⟩ _ hx, ih _ hfx⟩

theorem mixBlock_fx_in (hP : Representable P) {s : State α} (h : s.In P.num.V) : ∀ x ∈ (mixBlock P s).2.2, x.In P.num.V := by
  unfold mixBlock
  cases P.topology
  case shared => exact runShared_in P (mixShared_buses_in P _ _ _ (Buses.in_zero P hP)) _ h.fx
  case priv => exact mixPrivate_fx_in P _ _ _ h.fx

/-! ### The commands -/

theorem frameOp_in (hP : Representable P) {s : State α} (h : s.In P.num.V) : (frameOp P s).In P.num.V where
  channels := by
    rw [frameOp_channels, mixBlock_channels]
    exact List.forall_mem_map.2 fun ch hch => mix_in P hP s.wmem (h.channels ch hch)
  fx := mixBlock_fx_in P hP h

theorem channel_reset_in : (Channel.reset : Channel α).In V := fun _ h => nomatch h

/-- The cleared signal state of a reverb stores 0 alone, beside the coefficients (R61). -/
theorem reverb_clear_in (h0 : V 0) {v : Reverb α} (hfb : V v.fb) (hdamp : V v.damp) : v.clear.In V where
  fb := hfb
  damp := hdamp
  pre := Line.in_nil
  combL _ hc := List.eq_of_mem_replicate hc ▸ ⟨h0, Line.in_nil⟩
  combR _ hc := List.eq_of_mem_replicate hc ▸ ⟨h0, Line.in_nil⟩
  apL _ ha := List.eq_of_mem_replicate ha ▸ Line.in_nil
  apR _ ha := List.eq_of_mem_replicate ha ▸ Line.in_nil

theorem fx_clear_in (h0 : V 0) {x : FxUnits α} (h : x.In V) : x.clear.In V :=
  ⟨Line.in_nil, ⟨Line.in_nil, Line.in_nil⟩, reverb_clear_in h0 h.reverb.fb h.reverb.damp⟩

theorem rewindOp_in (h0 : V 0) {s : State α} (h : s.In V) : (rewindOp s).In V where
  channels := List.forall_mem_map.2 fun _ _ => channel_reset_in
  fx := List.forall_mem_map.2 fun x hx => fx_clear_in h0 (h.fx x hx)

theorem clearMetersOp_in {s : State α} (h : s.In V) : (clearMetersOp s).In V where
  channels := List.forall_mem_map.2 fun ch hch => h.channels ch hch
  fx := h.fx

/-- A command on one channel keeps every stored value in `V` where what it does to a channel does. -/
theorem onChannel_in (c : Nat) {f : Channel α → Channel α} (hf : ∀ ch : Channel α, ch.In V → (f ch).In V) {s : State α} (h : s.In V) :
    (s.onChannel c f).In V where
  channels := by
    rcases onChannel_cases s c f with ⟨ch, hc, e⟩ | ⟨-, e⟩ <;> rw [e]
    · intro ch' hch'
      rcases List.mem_or_eq_of_mem_set hch' with old | rfl
      · exact h.channels ch' old
      · exact hf ch (h.channels ch (List.mem_of_getElem? hc))
    · exact h.channels
  fx := by simpa using h.fx

/-- A command on one owner's units keeps every stored value in `V` where what it does to the units does. -/
theorem onOwner_in (o : Nat) {f : FxUnits α → FxUnits α} (hf : ∀ x : FxUnits α, x.In V → (f x).In V) {s : State α} (h : s.In V) :
    (s.onOwner o f).In V where
  channels := by simpa using h.channels
  fx := by
    rcases onOwner_cases s o f with ⟨x, hx, e⟩ | ⟨-, e⟩ <;> rw [e]
    · intro x' hx'
      rcases List.mem_or_eq_of_mem_set hx' with old | rfl
      · exact h.fx x' old
      · exact hf x (h.fx x (List.mem_of_getElem? hx))
    · exact h.fx

theorem bpCoef_in (fc bw : α) :
    P.num.V (bpCoef P fc bw .pitched).a ∧ P.num.V (bpCoef P fc bw .pitched).b ∧ P.num.V (bpCoef P fc bw .pitched).c :=
  ⟨P.num.V_mul _ _, P.num.V_mul _ _, P.num.V_exp _⟩

/-- A new filter stores coefficients and cleared histories (44_channel_commands.md R253). -/
theorem newFilter_in (hP : Representable P) (ch : Channel α) (p : BitVec 7) : (Tone.square (newFilter P ch p)).In P.num.V := by
  obtain ⟨ha, hb, hc⟩ := bpCoef_in P (keyFrequency P.num (natQ p.toNat)) (P.resBwHz ch.resonance.toNat)
  exact (Tone.in_square_iff _).2 ⟨P.num.V_div _ _, hP.zero, ha, hb, hc, hP.zero, hP.zero⟩

theorem newSample_in (hP : Representable P) (d : Descriptor) : (Tone.sampled (newSample P d)).In P.num.V :=
  (Tone.in_sampled_iff _).2 ⟨hP.zero, P.num.V_div _ _, P.num.V_div _ _, P.num.V_div _ _⟩

theorem newTone_in (hP : Representable P) (wd : List Descriptor) (ch : Channel α) (p : BitVec 7) {t : Tone α}
    (e : newTone P wd ch p = some t) : t.In P.num.V := by
  unfold newTone at e
  split at e
  · cases e; exact Tone.in_piano
  · cases e; exact newFilter_in P hP ch p
  · cases e; exact newFilter_in P hP ch p
  · obtain ⟨d, -, rfl⟩ := Option.map_eq_some_iff.1 e
    exact newSample_in P hP d

theorem newGlide_in (hP : Representable P) (ch : Channel α) (p : BitVec 7) :
    P.num.V (newGlide P ch p).1 ∧ P.num.V (newGlide P ch p).2.1 := by
  unfold newGlide
  dsimp only
  split
  · exact ⟨hP.zero, hP.zero⟩
  · split
    · exact ⟨P.num.V_sub _ _, P.num.V_div _ _⟩
    · exact ⟨hP.zero, hP.zero⟩

theorem allocate_in (hP : Representable P) (wd : List Descriptor) (p v : BitVec 7) {ch : Channel α} (h : ch.In P.num.V) :
    (ch.allocate P wd p v).In P.num.V := by
  unfold Channel.allocate
  split
  · exact h
  · split
    · exact h
    · next t ht =>
      obtain ⟨hoff, hstep⟩ := newGlide_in P hP ch p
      have fresh : (newVoice P ch p v t).In P.num.V := ⟨hP.zero, hP.zero, hoff, hstep, hP.zero, newTone_in P hP wd ch p ht⟩
      exact List.forall_mem_append.2 ⟨h, by simpa using fresh⟩

/-- A released voice stores the values it stored (R255). -/
theorem releaseFirst_in (p : BitVec 7) (vel : Nat) {vs : List (Voice α)} (h : ∀ v ∈ vs, v.In V) :
    ∀ v ∈ releaseFirst P p vel vs, v.In V := by
  induction vs with
  | nil => exact h
  | cons t rest ih =>
    obtain ⟨ht, hrest⟩ := List.forall_mem_cons.1 h
    unfold releaseFirst
    split
    · split
      · exact h
      · exact List.forall_mem_cons.2 ⟨⟨ht.bend, ht.vibM, ht.portaOff, ht.portaStep, ht.phase, ht.tone⟩, hrest⟩
    · exact List.forall_mem_cons.2 ⟨ht, ih hrest⟩

theorem noteOffOp_in (c : BitVec 8) (p v : BitVec 7) {s : State α} (h : s.In V) : (noteOffOp P c p v s).In V := by
  unfold noteOffOp
  split
  · exact onChannel_in _ (f := fun ch => ch.noteOff P p v.toNat) (fun _ hch => releaseFirst_in P p _ hch) h
  · exact h

theorem noteOnOp_in (hP : Representable P) (c : BitVec 8) (p v : BitVec 7) {s : State α} (h : s.In P.num.V) :
    (noteOnOp P c p v s).In P.num.V := by
  unfold noteOnOp
  split
  · split
    · exact noteOffOp_in P c p 0 h
    · exact onChannel_in _ (fun _ hch => allocate_in P hP s.wd p v hch) h
  · exact h

theorem bendLast_in {b : α} (hb : V b) {vs : List (Voice α)} (h : ∀ v ∈ vs, v.In V) : ∀ v ∈ bendLast b vs, v.In V := by
  induction vs with
  | nil => exact h
  | cons t rest ih =>
    obtain ⟨ht, hrest⟩ := List.forall_mem_cons.1 h
    cases rest with
    | nil => exact List.forall_mem_cons.2 ⟨{ ht with bend := hb }, hrest⟩
    | cons u rest => exact List.forall_mem_cons.2 ⟨ht, ih hrest⟩

theorem pitchBendOp_in (c : BitVec 8) (lsb msb : BitVec 7) {s : State α} (h : s.In P.num.V) :
    (pitchBendOp P c lsb msb s).In P.num.V := by
  unfold pitchBendOp
  split
  · exact onChannel_in _ (f := fun ch => ch.pitchBend P lsb msb) (fun _ hch => bendLast_in (P.num.V_mul _ _) hch) h
  · exact h

theorem pedal_in (down : Bool) {v : Voice α} (h : v.In V) : (v.pedal down).In V := by
  constructor <;> simp [h.bend, h.vibM, h.portaOff, h.portaStep, h.phase, h.tone]

/-- A register write changes no voice; the sustain latch changes no stored value (R260, R262). -/
theorem write_in (idx : BitVec 8) (data : Word) {ch : Channel α} (h : ch.In V) : (ch.write idx data).In V := by
  by_cases hidx : idx = 0x06
  · subst hidx
    exact List.forall_mem_map.2 fun v hv => pedal_in _ (h v hv)
  · unfold Channel.In
    rw [write_voices ch idx data hidx]
    exact h

theorem writeChannelOp_in (c idx : BitVec 8) (data : Word) {s : State α} (h : s.In V) : (writeChannelOp P c idx data s).In V := by
  unfold writeChannelOp
  split
  · exact onChannel_in _ (fun _ hch => write_in idx data hch) h
  · exact h

/-- FXSTART clears a unit's signal state; the reverb's coefficients are the parameters' (42_chorus_echo.md R202). -/
theorem start_in (hP : Representable P) (u : Nat) (depth : BitVec 7) {x : FxUnits α} (h : x.In P.num.V) :
    (x.start P u depth).In P.num.V := by
  unfold FxUnits.start
  split
  · exact { h with chorus := Line.in_nil }
  · exact { h with echo := ⟨Line.in_nil, Line.in_nil⟩ }
  · have cleared : ({ x.reverb with depth := depth } : Reverb α).clear.In P.num.V :=
      reverb_clear_in hP.zero h.reverb.fb h.reverb.damp
    refine { h with reverb := ?_ }
    unfold Reverb.coefficients
    split
    · exact cleared
    · exact { cleared with fb := hP.revFeedback _, damp := hP.revDamp _ }
  · exact h

theorem fxStartOp_in (hP : Representable P) (owner u : BitVec 8) (depth : BitVec 7) {s : State α} (h : s.In P.num.V) :
    (fxStartOp P owner u depth s).In P.num.V := by
  unfold fxStartOp
  split
  · exact h
  · split
    · exact h
    · split
      · exact h
      · exact onOwner_in _ (fun _ hx => start_in P hP u.toNat depth hx) h

/-- Every command keeps the stored values representable. -/
theorem commandOp_in (hP : Representable P) (i : Instr) {s : State α} (h : s.In P.num.V) : (commandOp P i s).In P.num.V := by
  cases i with
  | nop => exact h
  | frame => exact frameOp_in P hP h
  | rewind => exact rewindOp_in hP.zero h
  | mclr => exact clearMetersOp_in h
  | noteon c p v => exact noteOnOp_in P hP c p v h
  | noteoff c p v => exact noteOffOp_in P c p v h
  | pbend c lsb msb => exact pitchBendOp_in P c lsb msb h
  | wrch c idx data => exact writeChannelOp_in P c idx data h
  | wrg idx data => exact ⟨by simpa [commandOp] using h.channels, by simpa [commandOp] using h.fx⟩
  | fxstart owner u depth => exact fxStartOp_in P hP owner u depth h
  | wavptr addr => exact ⟨h.channels, h.fx⟩
  | wavdat left right => exact ⟨h.channels, h.fx⟩
  | wdesc d field data =>
    unfold commandOp writeDescriptorOp
    dsimp only
    split
    · exact ⟨by simpa using h.channels, by simpa using h.fx⟩
    · exact h

/-- At reset there is no voice, and the effect units store 0 alone (10_state.md R65). -/
theorem resetOf_in (hP : Representable P) : (State.resetOf P).In P.num.V where
  channels _ hch := List.eq_of_mem_replicate hch ▸ channel_reset_in
  fx _ hx := List.eq_of_mem_replicate hx ▸
    ⟨Line.in_nil, ⟨Line.in_nil, Line.in_nil⟩, reverb_clear_in (v := Reverb.reset) hP.zero hP.zero hP.zero⟩

end

/-- Settles O6: representability of the parts of the state holds at reset and every command keeps it. -/
theorem storedValuesAreRepresentable : Obligations.StoredValuesAreRepresentable := by
  unfold Obligations.StoredValuesAreRepresentable
  intro α _ _ _ _ P hP
  simp only [forall_mem_stateValues]
  exact ⟨resetOf_in P hP, fun i s h => commandOp_in P hP i h⟩

end Machine

end Sys2Proof
end

section
/-! The parts of the running machine's elementary functions, and R8's properties of its NUM (00_scope.md R8, log 1). -/

namespace Sys2Proof

set_option linter.unusedSectionVars false

namespace Numeric

/-! ### The parts of the running machine's elementary functions -/

/-- The model's power of two is the integer power of the field. -/
theorem pow2_eq (n : Int) : pow2 n = (2 : ℚ) ^ n := by
  unfold pow2
  split
  · next h =>
    obtain ⟨k, rfl⟩ := Int.eq_ofNat_of_zero_le h
    simp
  · next h =>
    obtain ⟨k, hk⟩ := Int.eq_ofNat_of_zero_le (show 0 ≤ -n by omega)
    obtain rfl : n = -(k : ℤ) := by omega
    simp [zpow_neg]

theorem pow2_pos (n : Int) : 0 < pow2 n := by
  rw [pow2_eq]
  positivity

theorem pow2_succ (n : Int) : pow2 (n + 1) = 2 * pow2 n := by
  rw [pow2_eq, pow2_eq, zpow_add_one₀ two_ne_zero, mul_comm]

theorem abs_unitClamp_le (x : ℚ) : |unitClamp x| ≤ 1 := by
  unfold unitClamp
  split
  · norm_num
  · split
    · norm_num
    · exact abs_le.2 ⟨not_lt.1 ‹_›, not_lt.1 ‹_›⟩

theorem abs_sin2pi_le (x : ℚ) : |sin2pi x| ≤ 1 := abs_unitClamp_le _

theorem one_le_mantissa2 (t : ℚ) : 1 ≤ mantissa2 t := le_max_left _ _

theorem expSeries_zero (k n : ℕ) : expSeries 0 k n = 1 := by cases n <;> simp [expSeries]

/-- A whole number stands on the grid. -/
theorem toGrid_intCast (n : ℤ) : toGrid n = n := by
  have grid : ((n : ℚ) * (gridScale : ℚ) + 1 / 2).floor = n * 2 ^ 64 := by
    have e : (n : ℚ) * (gridScale : ℚ) + 1 / 2 = ((n * 2 ^ 64 : ℤ) : ℚ) + 1 / 2 := by
      rw [gridScale]
      push_cast
      rfl
    rw [e]
    change ⌊((n * 2 ^ 64 : ℤ) : ℚ) + 1 / 2⌋ = n * 2 ^ 64
    rw [Int.floor_intCast_add]
    norm_num
  rw [toGrid, grid, gridScale]
  norm_num

theorem mantissa2_zero : mantissa2 0 = 1 := by
  have one : toGrid 1 = 1 := by simpa using toGrid_intCast 1
  simp [mantissa2, expSmall, expSeries_zero, one]

theorem sin2pi_zero : sin2pi 0 = 0 := by
  have start : toGrid (quarterSine 0) = 0 := by simpa [quarterSine] using toGrid_intCast 0
  have whole : (0 : ℚ).floor = 0 := rfl
  norm_num [sin2pi, whole, start, unitClamp]

theorem exp2_eq (x : ℚ) : exp2 x = pow2 ⌊x⌋ * mantissa2 (x - ⌊x⌋) := rfl

theorem exp2_pos (x : ℚ) : 0 < exp2 x := mul_pos (pow2_pos _) (one_pos.trans_le (one_le_mantissa2 _))

/-- `exp` before it is kept below `1 / (1 - x)`. -/
def expUncapped (x : ℚ) : ℚ :=
  pow2 ⌊x / ln2Approx⌋ * max 1 (toGridUp (expSmall (x - (⌊x / ln2Approx⌋ : ℚ) * ln2Approx)))

theorem exp_eq (x : ℚ) : exp x = if x < 0 then min (expUncapped x) (1 / (1 - x)) else expUncapped x := rfl

theorem expUncapped_pos (x : ℚ) : 0 < expUncapped x := mul_pos (pow2_pos _) (one_pos.trans_le (le_max_left _ _))

/-- R8's properties hold of the running machine's NUM by the shape of its functions: the exact integer part of `exp2`, the clamp of the
sine, the cap of `exp`. -/
theorem exactNum_lawful : LawfulNum exactNum where
  exp2_zero := by
    change exp2 0 = 1
    simp [exp2_eq, pow2_eq, mantissa2_zero]
  exp2_succ x := by
    change exp2 (x + 1) = 2 * exp2 x
    have ht : x + 1 - ((⌊x⌋ + 1 : ℤ) : ℚ) = x - ⌊x⌋ := by push_cast; ring
    rw [exp2_eq, exp2_eq, Int.floor_add_one, pow2_succ, mul_assoc, ht]
  sin2pi_zero := sin2pi_zero
  sin2pi_le := abs_sin2pi_le
  cos2pi_le x := abs_sin2pi_le (x + 1 / 4)
  exp_pos x hx := by
    change 0 < exp x
    rw [exp_eq, if_pos hx]
    exact lt_min (expUncapped_pos x) (one_div_pos.2 (by linarith))
  exp_lt_one x hx := by
    change exp x < 1
    rw [exp_eq, if_pos hx]
    exact (min_le_right _ _).trans_lt ((div_lt_one (by linarith)).2 (by linarith))
  sqrt_nonneg x := div_nonneg (Nat.cast_nonneg _) (Nat.cast_nonneg _)

theorem exactNum_positive : PositiveNum exactNum where
  pi_pos := by norm_num [exactNum, piApprox]
  exp2_pos := exp2_pos

end Numeric

end Sys2Proof
end

section
/-! O59: the running machine's sine, cosine and `pi` against the true ones (00_scope.md R8, log 1). The error has four parts: that of
`piApprox`, the rest of the power series, the rounding to the grid, and the clamp, which adds none. -/

namespace Sys2Proof.Numeric

open Finset

theorem cast_abs_sub_le {a b c : ℚ} (h : |a - b| ≤ c) : |(a : ℝ) - b| ≤ (c : ℝ) := by exact_mod_cast h

/-! ### Rounding to the grid -/

/-- Rounding to the nearest point of the grid moves a value by half a grid step at most. -/
theorem abs_toGrid_sub_le (x : ℚ) : |toGrid x - x| ≤ 1 / 2 ^ 65 := by
  have lower := Int.floor_le (x * 2 ^ 64 + 1 / 2)
  have upper := Int.lt_floor_add_one (x * 2 ^ 64 + 1 / 2)
  have e : toGrid x = (⌊x * 2 ^ 64 + 1 / 2⌋ : ℚ) / 2 ^ 64 := by
    unfold toGrid gridScale
    push_cast
    rfl
  rw [e, abs_le]
  constructor <;> linarith

/-! ### The series of sine and cosine -/

theorem ascFactorial_succ_left (k n : ℕ) : k.ascFactorial (n + 1) = k * (k + 1).ascFactorial n := by
  rw [Nat.ascFactorial_succ, Nat.succ_ascFactorial]

/-- The nested series written out: `1 - y2/(k(k+1)) + y2^2/(k(k+1)(k+2)(k+3)) - ...`. -/
theorem trigSeries_eq_sum (y2 : ℚ) (k n : ℕ) :
    trigSeries y2 k n = ∑ j ∈ range (n + 1), (-y2) ^ j / (k.ascFactorial (2 * j) : ℚ) := by
  induction n generalizing k with
  | zero => simp [trigSeries]
  | succ n ih =>
    have term (j : ℕ) : (-y2) ^ (j + 1) / (k.ascFactorial (2 * (j + 1)) : ℚ)
        = -(y2 / ((k * (k + 1) : ℕ) : ℚ)) * ((-y2) ^ j / ((k + 2).ascFactorial (2 * j) : ℚ)) := by
      rw [show 2 * (j + 1) = 2 * j + 1 + 1 by ring, ascFactorial_succ_left, ascFactorial_succ_left, ← mul_assoc, pow_succ', Nat.cast_mul,
        ← neg_div, div_mul_div_comm]
    rw [trigSeries, ih, sum_range_succ' _ (n + 1)]
    simp only [term, ← mul_sum, mul_zero, pow_zero, Nat.ascFactorial_zero, Nat.cast_one, div_one]
    ring

/-- The series of `exp(iy)` up to an odd power splits into those of cosine and sine. -/
theorem sum_exp_mul_I (y : ℝ) (n : ℕ) :
    ∑ m ∈ range (2 * n), ((y : ℂ) * Complex.I) ^ m / (m.factorial : ℂ)
      = ((∑ j ∈ range n, (-(y * y)) ^ j / ((2 * j).factorial : ℝ) : ℝ) : ℂ)
        + ((y * ∑ j ∈ range n, (-(y * y)) ^ j / ((2 * j + 1).factorial : ℝ) : ℝ) : ℂ) * Complex.I := by
  induction n with
  | zero => simp
  | succ n ih =>
    have even : ((y : ℂ) * Complex.I) ^ (2 * n) = (-((y : ℂ) * y)) ^ n := by
      rw [pow_mul, mul_pow, Complex.I_sq]
      ring
    rw [show 2 * (n + 1) = 2 * n + 1 + 1 by ring, sum_range_succ, sum_range_succ, ih, pow_succ, even, sum_range_succ, sum_range_succ]
    push_cast
    ring

/-- What is near `exp(iy)` has its parts near the cosine and the sine. -/
theorem abs_sub_sin_cos_le_of_norm {y c s ε : ℝ} (h : ‖Complex.exp (y * Complex.I) - ((c : ℂ) + (s : ℂ) * Complex.I)‖ ≤ ε) :
    |s - Real.sin y| ≤ ε ∧ |c - Real.cos y| ≤ ε := by
  constructor
  · rw [abs_sub_comm]
    simpa [Complex.exp_ofReal_mul_I_im] using (Complex.abs_im_le_norm _).trans h
  · rw [abs_sub_comm]
    simpa [Complex.exp_ofReal_mul_I_re] using (Complex.abs_re_le_norm _).trans h

/-- The rest of the sine and cosine series of 13 terms on [-1, 1]. -/
theorem abs_sum_sub_sin_cos_le {y : ℝ} (hy : |y| ≤ 1) :
    |y * ∑ j ∈ range 13, (-(y * y)) ^ j / ((2 * j + 1).factorial : ℝ) - Real.sin y| ≤ 1 / 10 ^ 26
      ∧ |∑ j ∈ range 13, (-(y * y)) ^ j / ((2 * j).factorial : ℝ) - Real.cos y| ≤ 1 / 10 ^ 26 := by
  have hnorm : ‖(y : ℂ) * Complex.I‖ = |y| := by simp
  have tail : ‖(y : ℂ) * Complex.I‖ ^ 26 / ((26 : ℕ).factorial : ℝ) * 2 ≤ 1 / 10 ^ 26 := by
    have : |y| ^ 26 ≤ 1 := pow_le_one₀ (abs_nonneg y) hy
    rw [hnorm, div_mul_eq_mul_div, div_le_div_iff₀ (by positivity) (by positivity)]
    norm_num [Nat.factorial]
    linarith
  have rest := (Complex.exp_bound' (x := (y : ℂ) * Complex.I) (n := 26) (by rw [hnorm]; norm_num; linarith)).trans tail
  rw [show 26 = 2 * 13 from rfl, sum_exp_mul_I] at rest
  exact abs_sub_sin_cos_le_of_norm rest

theorem abs_sinSeries_sub_le {y : ℚ} (hy : |y| ≤ 1) :
    |((y * trigSeries (y * y) 2 12 : ℚ) : ℝ) - Real.sin y| ≤ 1 / 10 ^ 26 := by
  have divisor (j : ℕ) : Nat.ascFactorial 2 (2 * j) = (2 * j + 1).factorial := by
    rw [add_comm, ← Nat.factorial_mul_ascFactorial 1, Nat.factorial_one, one_mul]
  simpa [trigSeries_eq_sum, divisor] using (abs_sum_sub_sin_cos_le (y := y) (by exact_mod_cast hy)).1

theorem abs_cosSeries_sub_le {y : ℚ} (hy : |y| ≤ 1) :
    |((trigSeries (y * y) 1 12 : ℚ) : ℝ) - Real.cos y| ≤ 1 / 10 ^ 26 := by
  simpa [trigSeries_eq_sum, Nat.one_ascFactorial] using (abs_sum_sub_sin_cos_le (y := y) (by exact_mod_cast hy)).2

/-! ### The angle of a phase -/

theorem abs_piApprox_sub_le : |(piApprox : ℝ) - Real.pi| ≤ 1 / 10 ^ 20 := by
  have lower := Real.pi_gt_d20
  have upper := Real.pi_lt_d20
  unfold piApprox
  rw [abs_le]
  push_cast
  constructor <;> norm_num at lower upper ⊢ <;> linarith

/-- The angle of a phase of an eighth of a cycle at most: below 1, and within 10^-20 of the true one. -/
theorem angle_accurate {t : ℚ} (h0 : 0 ≤ t) (h1 : t ≤ 1 / 8) :
    |2 * piApprox * t| ≤ 1 ∧ |((2 * piApprox * t : ℚ) : ℝ) - 2 * Real.pi * t| ≤ 1 / 10 ^ 20 := by
  constructor
  · unfold piApprox
    rw [abs_of_nonneg (by positivity)]
    linarith
  · have hpi := abs_piApprox_sub_le
    have h0' : (0 : ℝ) ≤ t := by exact_mod_cast h0
    have h1' : (t : ℝ) ≤ 1 / 8 := (Rat.cast_le.2 h1).trans (by norm_num)
    have factor : |2 * (t : ℝ)| ≤ 1 := by rw [abs_of_nonneg (by positivity)]; linarith
    calc |((2 * piApprox * t : ℚ) : ℝ) - 2 * Real.pi * t|
        = |2 * (t : ℝ)| * |(piApprox : ℝ) - Real.pi| := by rw [← abs_mul]; push_cast; ring_nf
      _ ≤ 1 * (1 / 10 ^ 20) := mul_le_mul factor hpi (abs_nonneg _) zero_le_one
      _ = 1 / 10 ^ 20 := one_mul _

/-! ### A quarter of the sine, and the whole sine from it -/

/-- On its quarter of a cycle the series, the sine's or the cosine's, is the sine of the phase. -/
theorem abs_quarterSine_sub_le {t : ℚ} (h0 : 0 ≤ t) (h1 : t ≤ 1 / 4) :
    |(quarterSine t : ℝ) - Real.sin (2 * Real.pi * t)| ≤ 2 / 10 ^ 20 := by
  unfold quarterSine
  split
  · next h =>
    obtain ⟨small, angle⟩ := angle_accurate h0 h
    calc _ ≤ _ := abs_sub_le _ (Real.sin ((2 * piApprox * t : ℚ) : ℝ)) _
      _ ≤ 1 / 10 ^ 26 + 1 / 10 ^ 20 :=
        add_le_add (abs_sinSeries_sub_le small) ((Real.abs_sin_sub_sin_le _ _).trans angle)
      _ ≤ 2 / 10 ^ 20 := by norm_num
  · next h =>
    obtain ⟨small, angle⟩ := angle_accurate (t := 1 / 4 - t) (by linarith) (by linarith)
    have reflected : Real.sin (2 * Real.pi * t) = Real.cos (2 * Real.pi * ((1 / 4 - t : ℚ) : ℝ)) := by
      rw [← Real.cos_pi_div_two_sub]
      push_cast
      ring_nf
    rw [reflected]
    calc _ ≤ _ := abs_sub_le _ (Real.cos ((2 * piApprox * (1 / 4 - t) : ℚ) : ℝ)) _
      _ ≤ 1 / 10 ^ 26 + 1 / 10 ^ 20 :=
        add_le_add (abs_cosSeries_sub_le small) ((Real.abs_cos_sub_cos_le _ _).trans angle)
      _ ≤ 2 / 10 ^ 20 := by norm_num

/-- The same after the rounding to the grid. -/
theorem abs_toGrid_quarterSine_sub_le {t : ℚ} (h0 : 0 ≤ t) (h1 : t ≤ 1 / 4) :
    |(toGrid (quarterSine t) : ℝ) - Real.sin (2 * Real.pi * t)| ≤ 1 / 10 ^ 15 := by
  have grid : |(toGrid (quarterSine t) : ℝ) - quarterSine t| ≤ 1 / 2 ^ 65 :=
    (cast_abs_sub_le (abs_toGrid_sub_le _)).trans (by norm_num)
  calc _ ≤ _ := abs_sub_le _ (quarterSine t : ℝ) _
    _ ≤ 1 / 2 ^ 65 + 2 / 10 ^ 20 := add_le_add grid (abs_quarterSine_sub_le h0 h1)
    _ ≤ 1 / 10 ^ 15 := by norm_num

/-- The sine of a phase in [0, 1), folded to a quarter of a cycle, before the clamp. -/
def foldedSine (u : ℚ) : ℚ :=
  if u ≤ 1 / 4 then toGrid (quarterSine u)
  else if u ≤ 1 / 2 then toGrid (quarterSine (1 / 2 - u))
  else if u ≤ 3 / 4 then -toGrid (quarterSine (u - 1 / 2))
  else -toGrid (quarterSine (1 - u))

theorem sin2pi_eq (x : ℚ) : sin2pi x = unitClamp (foldedSine (x - ⌊x⌋)) := rfl

theorem abs_foldedSine_sub_le {u : ℚ} (h0 : 0 ≤ u) (h1 : u < 1) :
    |(foldedSine u : ℝ) - Real.sin (2 * Real.pi * u)| ≤ 1 / 10 ^ 15 := by
  unfold foldedSine
  split
  · exact abs_toGrid_quarterSine_sub_le h0 ‹_›
  split
  · have := abs_toGrid_quarterSine_sub_le (t := 1 / 2 - u) (by linarith) (by linarith)
    rwa [show 2 * Real.pi * ((1 / 2 - u : ℚ) : ℝ) = Real.pi - 2 * Real.pi * u by push_cast; ring, Real.sin_pi_sub] at this
  split
  · have := abs_toGrid_quarterSine_sub_le (t := u - 1 / 2) (by linarith) (by linarith)
    rw [show 2 * Real.pi * ((u - 1 / 2 : ℚ) : ℝ) = 2 * Real.pi * u - Real.pi by push_cast; ring, Real.sin_sub_pi] at this
    rwa [Rat.cast_neg, ← abs_neg, neg_sub', neg_neg]
  · have := abs_toGrid_quarterSine_sub_le (t := 1 - u) (by linarith) (by linarith)
    rw [show 2 * Real.pi * ((1 - u : ℚ) : ℝ) = 2 * Real.pi - 2 * Real.pi * u by push_cast; ring, Real.sin_two_pi_sub] at this
    rwa [Rat.cast_neg, ← abs_neg, neg_sub', neg_neg]

/-- Clamping to [-1, 1] brings a value no further from one that lies there. -/
theorem abs_unitClamp_sub_le (x : ℚ) {s : ℝ} (hs : |s| ≤ 1) : |(unitClamp x : ℝ) - s| ≤ |(x : ℝ) - s| := by
  obtain ⟨hl, hu⟩ := abs_le.1 hs
  unfold unitClamp
  split
  · next h =>
    have h' : (x : ℝ) < -1 := by exact_mod_cast h
    rw [abs_of_nonpos (by push_cast; linarith), abs_of_nonpos (by linarith)]
    push_cast
    linarith
  · split
    · next h =>
      have h' : (1 : ℝ) < x := by exact_mod_cast h
      rw [abs_of_nonneg (by push_cast; linarith), abs_of_nonneg (by linarith)]
      push_cast
      linarith
    · exact le_refl _

theorem abs_sin2pi_sub_le (x : ℚ) : |(sin2pi x : ℝ) - Real.sin (2 * Real.pi * x)| ≤ 1 / 10 ^ 15 := by
  have period : Real.sin (2 * Real.pi * x) = Real.sin (2 * Real.pi * ((x - ⌊x⌋ : ℚ) : ℝ)) := by
    rw [← Real.sin_sub_int_mul_two_pi _ ⌊x⌋]
    push_cast
    ring_nf
  rw [sin2pi_eq, period]
  exact (abs_unitClamp_sub_le _ (Real.abs_sin_le_one _)).trans
    (abs_foldedSine_sub_le (sub_nonneg.2 (Int.floor_le x)) (by linarith [Int.lt_floor_add_one x]))

theorem abs_cos2pi_sub_le (x : ℚ) : |(cos2pi x : ℝ) - Real.cos (2 * Real.pi * x)| ≤ 1 / 10 ^ 15 := by
  have quarter : Real.cos (2 * Real.pi * x) = Real.sin (2 * Real.pi * ((x + 1 / 4 : ℚ) : ℝ)) := by
    rw [← Real.sin_add_pi_div_two]
    push_cast
    ring_nf
  rw [quarter]
  exact abs_sin2pi_sub_le (x + 1 / 4)

/-- Settles O59 from the accuracy of a quarter of the sine. -/
theorem sineAndCosineAreAccurate : Obligations.SineAndCosineAreAccurate := by
  unfold Obligations.SineAndCosineAreAccurate
  exact ⟨fun x => ⟨abs_sin2pi_sub_le x, abs_cos2pi_sub_le x⟩, abs_piApprox_sub_le.trans (by norm_num)⟩

end Sys2Proof.Numeric
end

section
/-! O60: the running machine's `exp2`, `exp`, `ln` and square root against the true ones (00_scope.md R8, log 1). The two powers are a series
on [0, 1] times an exact power of two, the logarithm is a series in `(m - 1)/(m + 1)` with `m` near 1, and `ln2Approx` joins the two
scales. -/

namespace Sys2Proof.Numeric

open Finset

/-! ### The integer square root -/

/-- The bits still to find keep the root between `r` and `r + 2^k`. -/
theorem isqrtBits_spec (m k r : ℕ) (lower : r * r ≤ m) (upper : m < (r + 2 ^ k) * (r + 2 ^ k)) :
    isqrtBits m k r * isqrtBits m k r ≤ m ∧ m < (isqrtBits m k r + 1) * (isqrtBits m k r + 1) := by
  induction k generalizing r with
  | zero => exact ⟨lower, upper⟩
  | succ k ih =>
    rw [pow_succ, mul_two, ← add_assoc] at upper
    simp only [isqrtBits]
    split
    · exact ih _ ‹_› upper
    · exact ih _ lower (not_le.1 ‹_›)

theorem isqrt_eq_sqrt (m : ℕ) : isqrt m = Nat.sqrt m := by
  have first : m < (0 + 2 ^ (m.log2 / 2 + 1)) * (0 + 2 ^ (m.log2 / 2 + 1)) := by
    rw [zero_add, ← pow_add]
    exact Nat.lt_log2_self.trans_le (Nat.pow_le_pow_right two_pos (by omega))
  exact Nat.eq_sqrt.2 (isqrtBits_spec m _ 0 (Nat.zero_le m) first)

/-- The square root is the real one rounded down on the grid: `k` is the integer square root of `x * 2^128`. -/
theorem sqrt_accurate {x : ℚ} (hx : 0 ≤ x) : ∃ k : ℕ, sqrt x = (k : ℚ) / 2 ^ 64
    ∧ (k : ℝ) / 2 ^ 64 ≤ Real.sqrt x ∧ Real.sqrt x < ((k : ℝ) + 1) / 2 ^ 64 := by
  obtain ⟨m, hm⟩ := Int.eq_ofNat_of_zero_le (Int.floor_nonneg.2 (show (0 : ℚ) ≤ x * 2 ^ 128 by positivity))
  have hm' : (⌊x * 2 ^ 128⌋ : ℚ) = m := congrArg Int.cast hm
  have root : sqrt x = (Nat.sqrt m : ℚ) / 2 ^ 64 := by
    have : (x * ((gridScale * gridScale : ℕ) : ℚ)).floor = m := by
      rw [← hm, show ((gridScale * gridScale : ℕ) : ℚ) = 2 ^ 128 by norm_num [gridScale]]
      rfl
    unfold sqrt
    rw [this, Int.toNat_natCast, isqrt_eq_sqrt, gridScale]
    norm_num
  have lower : ((Nat.sqrt m : ℝ)) * Nat.sqrt m ≤ x * 2 ^ 128 := by
    have h1 : (m : ℚ) ≤ x * 2 ^ 128 := hm' ▸ Int.floor_le (x * 2 ^ 128)
    have h2 : ((Nat.sqrt m : ℚ)) * Nat.sqrt m ≤ x * 2 ^ 128 := le_trans (by exact_mod_cast Nat.sqrt_le m) h1
    exact_mod_cast h2
  have upper : (x : ℝ) * 2 ^ 128 < (Nat.sqrt m + 1) * (Nat.sqrt m + 1) := by
    have h1 : x * 2 ^ 128 < (m : ℚ) + 1 := hm' ▸ Int.lt_floor_add_one (x * 2 ^ 128)
    have h2 : x * 2 ^ 128 < ((Nat.sqrt m : ℚ) + 1) * (Nat.sqrt m + 1) :=
      lt_of_lt_of_le h1 (by exact_mod_cast Nat.lt_succ_sqrt m)
    exact_mod_cast h2
  refine ⟨Nat.sqrt m, root, Real.le_sqrt_of_sq_le ?_, (Real.sqrt_lt' (by positivity)).2 ?_⟩
  · rw [div_pow, div_le_iff₀ (by positivity), sq]
    linarith
  · rw [div_pow, lt_div_iff₀ (by positivity), sq]
    linarith

/-! ### The series of the logarithm and `ln 2` -/

theorem atanhSeries_eq_sum (z z2 : ℚ) (k n : ℕ) :
    atanhSeries z z2 k n = ∑ i ∈ range n, z * z2 ^ i / ((k + 2 * i : ℕ) : ℚ) := by
  induction n generalizing z k with
  | zero => rfl
  | succ n ih =>
    rw [atanhSeries, ih, sum_range_succ', add_comm]
    simp only [pow_succ, mul_zero, pow_zero, mul_one, add_zero]
    congr 1
    refine sum_congr rfl fun i _ => ?_
    rw [show k + 2 + 2 * i = k + 2 * (i + 1) by ring]
    ring

/-- The part of `ln` that is a series: the logarithm of `m` near 1, as `2 atanh((m - 1)/(m + 1))`. -/
def mantissaLog (m : ℚ) : ℚ := 2 * atanhSeries ((m - 1) / (m + 1)) ((m - 1) / (m + 1) * ((m - 1) / (m + 1))) 1 24

/-- The rest of the series of the logarithm of `m`, for `m` between 1/2 and 2. -/
theorem abs_mantissaLog_sub_log_le {m : ℚ} (hlow : 1 / 2 ≤ m) (hhigh : m ≤ 2) :
    |(mantissaLog m : ℝ) - Real.log m| ≤ 1 / 10 ^ 23 := by
  unfold mantissaLog
  obtain ⟨z, hz⟩ : ∃ z, z = (m - 1) / (m + 1) := ⟨_, rfl⟩
  rw [← hz]
  have third : |z| ≤ 1 / 3 := by
    rw [hz, abs_le, le_div_iff₀ (by linarith), div_le_iff₀ (by linarith)]
    constructor <;> linarith
  have third' : |(z : ℝ)| ≤ 1 / 3 := by
    have := (Rat.cast_le (K := ℝ)).2 third
    push_cast at this
    exact this
  have square : (z : ℝ) ^ 2 ≤ 1 / 9 := by
    rw [← sq_abs]
    exact (pow_le_pow_left₀ (abs_nonneg _) third' 2).trans (by norm_num)
  have argument : (1 + (z : ℝ)) / (1 - z) = m := by
    have hm : (1 : ℝ) / 2 ≤ m := by
      have := (Rat.cast_le (K := ℝ)).2 hlow
      push_cast at this
      exact this
    rw [hz]
    push_cast
    have : (m : ℝ) + 1 ≠ 0 := by linarith
    field_simp
    ring
  have series : ((atanhSeries z (z * z) 1 24 : ℚ) : ℝ) = ∑ i ∈ range 24, (z : ℝ) ^ (2 * i + 1) / (2 * i + 1) := by
    rw [atanhSeries_eq_sum]
    push_cast
    refine sum_congr rfl fun i _ => ?_
    rw [← pow_two, ← pow_mul, ← pow_succ', add_comm (1 : ℝ)]
  have rest := Real.sum_range_sub_log_div_le (x := z) (by linarith) 24
  rw [argument, ← series] at rest
  have tail : |(z : ℝ)| ^ (2 * 24 + 1) / (1 - (z : ℝ) ^ 2) ≤ 1 / (2 * 10 ^ 23) := by
    rw [div_le_div_iff₀ (by linarith) (by norm_num)]
    have := pow_le_pow_left₀ (abs_nonneg _) third' (2 * 24 + 1)
    norm_num at this ⊢
    linarith
  calc |((2 * atanhSeries z (z * z) 1 24 : ℚ) : ℝ) - Real.log m|
      = 2 * |1 / 2 * Real.log m - (atanhSeries z (z * z) 1 24 : ℚ)| := by
        rw [← abs_of_pos (two_pos : (0 : ℝ) < 2), ← abs_mul, abs_sub_comm, abs_of_pos (two_pos : (0 : ℝ) < 2)]
        push_cast
        ring_nf
    _ ≤ 2 * (1 / (2 * 10 ^ 23)) := by linarith
    _ = 1 / 10 ^ 23 := by norm_num

/-- `ln2Approx` is the machine's own series for `ln 2` to 80 binary places, and that is near the true one. -/
theorem abs_ln2Approx_sub_log_two_le : |(ln2Approx : ℝ) - Real.log 2| ≤ 2 / 10 ^ 23 := by
  have constant : |ln2Approx - mantissaLog 2| ≤ 1 / 10 ^ 23 := by
    norm_num [mantissaLog, atanhSeries_eq_sum, sum_range_succ, ln2Approx, abs_le]
  have series := abs_mantissaLog_sub_log_le (m := 2) (by norm_num) le_rfl
  rw [Rat.cast_ofNat] at series
  calc _ ≤ _ := abs_sub_le _ (mantissaLog 2 : ℝ) _
    _ ≤ 1 / 10 ^ 23 + 1 / 10 ^ 23 := add_le_add ((cast_abs_sub_le constant).trans (by norm_num)) series
    _ = 2 / 10 ^ 23 := by norm_num

theorem ln2Approx_mem : 1 / 2 < ln2Approx ∧ ln2Approx < 1 := by
  constructor <;> norm_num [ln2Approx]

/-! ### The logarithm -/

/-- A positive number and the power of two below it differ by a factor below 2. -/
theorem two_pow_log2_bounds {a : ℕ} (ha : a ≠ 0) : (2 ^ a.log2 : ℚ) ≤ a ∧ (a : ℚ) ≤ 2 * 2 ^ a.log2 := by
  constructor
  · exact_mod_cast Nat.log2_self_le ha
  · rw [← pow_succ']
    exact_mod_cast Nat.lt_log2_self.le

/-- The binary exponent leaves a mantissa between 1/2 and 2. -/
theorem mantissa_mem {x : ℚ} (hx : 0 < x) : 1 / 2 ≤ x / pow2 (binaryExponent x) ∧ x / pow2 (binaryExponent x) ≤ 2 := by
  have hnum : x.num.natAbs ≠ 0 := Int.natAbs_ne_zero.2 (Rat.num_pos.2 hx).ne'
  obtain ⟨num_low, num_high⟩ := two_pow_log2_bounds hnum
  obtain ⟨den_low, den_high⟩ := two_pow_log2_bounds x.den_nz
  have quotient : x = (x.num.natAbs : ℚ) / x.den := by
    conv_lhs => rw [← Rat.num_div_den x]
    rw [Nat.cast_natAbs, abs_of_pos (Rat.num_pos.2 hx)]
  have num_pos : (0 : ℚ) < x.num.natAbs := by exact_mod_cast Nat.pos_of_ne_zero hnum
  have den_pos : (0 : ℚ) < x.den := by exact_mod_cast x.den_pos
  have exponent : pow2 (binaryExponent x) = 2 ^ x.num.natAbs.log2 / 2 ^ x.den.log2 := by
    rw [pow2_eq, binaryExponent, zpow_sub₀ two_ne_zero, zpow_natCast, zpow_natCast]
  rw [exponent]
  generalize x.num.natAbs.log2 = k at *
  generalize x.den.log2 = l at *
  rw [quotient, div_div_div_eq, div_le_div_iff₀ (by positivity) (by positivity), div_le_iff₀ (by positivity)]
  constructor
  · nlinarith [mul_le_mul num_low den_high den_pos.le num_pos.le]
  · nlinarith [mul_le_mul num_high den_low (by positivity) (by positivity)]

theorem ln_eq {x : ℚ} (hx : 0 < x) :
    ln x = (binaryExponent x : ℚ) * ln2Approx + mantissaLog (x / pow2 (binaryExponent x)) := by
  unfold ln mantissaLog
  rw [if_neg (not_le.2 hx)]

/-- The error of `ln` grows with the binary exponent, which is no larger than the logarithm's size allows. -/
theorem abs_ln_sub_log_le {x : ℚ} (hx : 0 < x) : |(ln x : ℝ) - Real.log x| ≤ (1 + |Real.log x|) / 10 ^ 15 := by
  obtain ⟨hlow, hhigh⟩ := mantissa_mem hx
  rw [ln_eq hx]
  set n := binaryExponent x
  set m := x / pow2 n with hm
  have series := abs_mantissaLog_sub_log_le hlow hhigh
  have m_pos : (0 : ℝ) < m := by exact_mod_cast (by linarith : 0 < m)
  have split_log : Real.log x = n * Real.log 2 + Real.log m := by
    have : (x : ℝ) = (2 : ℝ) ^ n * m := by
      rw [hm, pow2_eq]
      push_cast
      field_simp
    rw [this, Real.log_mul (by positivity) m_pos.ne', Real.log_zpow]
  have log_m : |Real.log m| ≤ Real.log 2 := by
    have high : (m : ℝ) ≤ 2 := by exact_mod_cast hhigh
    have low : (2 : ℝ)⁻¹ ≤ m := by
      have := (Rat.cast_le (K := ℝ)).2 hlow
      push_cast at this
      linarith
    rw [abs_le, ← Real.log_inv]
    exact ⟨Real.log_le_log (by norm_num) low, Real.log_le_log m_pos high⟩
  have two_low : 1 / 2 < Real.log 2 := by linarith [Real.log_two_gt_d9]
  have two_high : Real.log 2 < 1 := by linarith [Real.log_two_lt_d9]
  have exponent : |(n : ℝ)| ≤ 2 * (1 + |Real.log x|) := by
    have : |(n : ℝ)| * Real.log 2 ≤ |Real.log x| + |Real.log m| := by
      rw [← abs_of_pos (by linarith : 0 < Real.log 2), ← abs_mul]
      calc |(n : ℝ) * Real.log 2| = |Real.log x - Real.log m| := by rw [split_log]; ring_nf
        _ ≤ _ := abs_sub _ _
    nlinarith [abs_nonneg (n : ℝ)]
  have scale := abs_ln2Approx_sub_log_two_le
  calc |(((n : ℚ) * ln2Approx + mantissaLog m : ℚ) : ℝ) - Real.log x|
      = |(n : ℝ) * ((ln2Approx : ℝ) - Real.log 2) + ((mantissaLog m : ℝ) - Real.log m)| := by
        rw [split_log]
        push_cast
        ring_nf
    _ ≤ |(n : ℝ)| * |(ln2Approx : ℝ) - Real.log 2| + |(mantissaLog m : ℝ) - Real.log m| := by
        rw [← abs_mul]
        exact abs_add_le _ _
    _ ≤ 2 * (1 + |Real.log x|) * (2 / 10 ^ 23) + 1 / 10 ^ 23 := by gcongr
    _ ≤ (1 + |Real.log x|) / 10 ^ 15 := by linarith [abs_nonneg (Real.log x)]

/-! ### The powers -/

/-- The nested series of `exp` written out. -/
theorem expSeries_eq_sum (y : ℚ) (k n : ℕ) :
    expSeries y k n = ∑ j ∈ range (n + 1), y ^ j / (k.ascFactorial j : ℚ) := by
  induction n generalizing k with
  | zero => simp [expSeries]
  | succ n ih =>
    have term (j : ℕ) : y ^ (j + 1) / (k.ascFactorial (j + 1) : ℚ) = y / k * (y ^ j / ((k + 1).ascFactorial j : ℚ)) := by
      rw [ascFactorial_succ_left, pow_succ', Nat.cast_mul, div_mul_div_comm]
    rw [expSeries, ih, sum_range_succ' _ (n + 1)]
    simp only [term, ← mul_sum, pow_zero, Nat.ascFactorial_zero, Nat.cast_one, div_one]
    ring

theorem abs_expSmall_sub_exp_le {y : ℚ} (hy : |y| ≤ 1) : |(expSmall y : ℝ) - Real.exp y| ≤ 1 / 10 ^ 25 := by
  have hy' : |(y : ℝ)| ≤ 1 := by exact_mod_cast hy
  have tail : |(y : ℝ)| ^ 25 * ((Nat.succ 25 : ℕ) / ((25 : ℕ).factorial * (25 : ℕ))) ≤ 1 / 10 ^ 25 :=
    (mul_le_of_le_one_left (by positivity) (pow_le_one₀ (abs_nonneg _) hy')).trans (by norm_num [Nat.factorial])
  have series : (expSmall y : ℝ) = ∑ j ∈ range 25, (y : ℝ) ^ j / (j.factorial : ℝ) := by
    simp [expSmall, expSeries_eq_sum, Nat.one_ascFactorial]
  rw [series, abs_sub_comm]
  exact (Real.exp_bound hy' (by norm_num)).trans tail

/-- Rounding up to the grid moves a value by a grid step at most. -/
theorem abs_toGridUp_sub_le (x : ℚ) : |toGridUp x - x| ≤ 1 / 2 ^ 64 := by
  have lower := Int.le_ceil (x * 2 ^ 64)
  have upper := Int.ceil_lt_add_one (x * 2 ^ 64)
  have e : toGridUp x = (⌈x * 2 ^ 64⌉ : ℚ) / 2 ^ 64 := by
    have : (-x * (gridScale : ℚ)).floor = -⌈x * 2 ^ 64⌉ := by
      rw [← Int.floor_neg, ← neg_mul, gridScale, Nat.cast_pow, Nat.cast_ofNat]
      rfl
    rw [toGridUp, this, gridScale]
    push_cast
    ring
  rw [e, abs_le]
  generalize (⌈x * 2 ^ 64⌉ : ℚ) = c at lower upper ⊢
  constructor <;> linarith

/-- The mantissa of a power: a series on [0, 1] rounded to the grid in one way or the other, and kept at 1 or above, is `exp` to 19 places. -/
theorem abs_max_one_sub_exp_le {r q : ℚ} (h0 : 0 ≤ r) (h1 : r ≤ 1) (hq : |q - expSmall r| ≤ 1 / 2 ^ 64) :
    |((max 1 q : ℚ) : ℝ) - Real.exp r| ≤ 1 / 10 ^ 19 := by
  have one_le : 1 ≤ Real.exp r := Real.one_le_exp (by exact_mod_cast h0)
  have near : |(q : ℝ) - Real.exp r| ≤ 1 / 10 ^ 19 :=
    calc _ ≤ _ := abs_sub_le _ (expSmall r : ℝ) _
      _ ≤ 1 / 2 ^ 64 + 1 / 10 ^ 25 :=
        add_le_add ((cast_abs_sub_le hq).trans (by norm_num)) (abs_expSmall_sub_exp_le (abs_le.2 ⟨by linarith, h1⟩))
      _ ≤ 1 / 10 ^ 19 := by norm_num
  push_cast
  calc _ = |max 1 (q : ℝ) - max 1 (Real.exp r)| := by rw [max_eq_right one_le]
    _ ≤ |(q : ℝ) - Real.exp r| := by simpa using abs_max_sub_max_le_max 1 (q : ℝ) 1 (Real.exp r)
    _ ≤ _ := near

/-- An absolute error at a value of 1 or above, and a small error of the exponent, are a small relative error. -/
theorem abs_sub_exp_le_of_near {p r v : ℝ} (hp : |p - Real.exp r| ≤ 1 / 10 ^ 19) (hr : 0 ≤ r) (hv : |r - v| ≤ 1 / 10 ^ 17) :
    |p - Real.exp v| ≤ Real.exp v / 10 ^ 15 := by
  have exponent : |Real.exp r - Real.exp v| ≤ Real.exp v * (2 / 10 ^ 17) := by
    have e : Real.exp r - Real.exp v = Real.exp v * (Real.exp (r - v) - 1) := by
      rw [mul_sub, ← Real.exp_add, mul_one, add_sub_cancel]
    rw [e, abs_mul, abs_of_pos (Real.exp_pos v)]
    have := Real.abs_exp_sub_one_le (hv.trans (by norm_num))
    exact mul_le_mul_of_nonneg_left (by linarith) (Real.exp_pos v).le
  have one_le : 1 ≤ Real.exp r := Real.one_le_exp hr
  have upper := (abs_le.1 exponent).2
  have := abs_sub_le p (Real.exp r) (Real.exp v)
  linarith

/-- A power of two times a mantissa keeps the mantissa's relative error. -/
theorem abs_pow2_mul_sub_le {n : ℤ} {p : ℚ} {e v : ℝ} (hp : |(p : ℝ) - e| ≤ e / 10 ^ 15) (hv : v = (2 : ℝ) ^ n * e) :
    |((pow2 n * p : ℚ) : ℝ) - v| ≤ v / 10 ^ 15 := by
  have scale : (0 : ℝ) < 2 ^ n := by positivity
  calc _ = (2 : ℝ) ^ n * |(p : ℝ) - e| := by
        rw [hv, pow2_eq, ← abs_of_pos scale, ← abs_mul, abs_of_pos scale]
        push_cast
        ring_nf
    _ ≤ (2 : ℝ) ^ n * (e / 10 ^ 15) := mul_le_mul_of_nonneg_left hp scale.le
    _ = v / 10 ^ 15 := by rw [hv, mul_div_assoc]

theorem abs_exp2_sub_le (x : ℚ) : |(exp2 x : ℝ) - (2 : ℝ) ^ (x : ℝ)| ≤ (2 : ℝ) ^ (x : ℝ) / 10 ^ 15 := by
  have t0 : 0 ≤ x - ⌊x⌋ := sub_nonneg.2 (Int.floor_le x)
  have t1 : x - ⌊x⌋ < 1 := by linarith [Int.lt_floor_add_one x]
  have power : (2 : ℝ) ^ (x : ℝ) = (2 : ℝ) ^ ⌊x⌋ * Real.exp (((x - ⌊x⌋ : ℚ) : ℝ) * Real.log 2) := by
    rw [mul_comm _ (Real.log 2), ← Real.rpow_def_of_pos two_pos, ← Real.rpow_intCast, ← Real.rpow_add two_pos]
    push_cast
    ring_nf
  rw [exp2_eq]
  set t := x - ⌊x⌋
  obtain ⟨ln2_low, ln2_high⟩ := ln2Approx_mem
  have r0 : 0 ≤ t * ln2Approx := mul_nonneg t0 (by linarith)
  have mantissa := abs_max_one_sub_exp_le r0 (by nlinarith) ((abs_toGrid_sub_le (expSmall (t * ln2Approx))).trans (by norm_num))
  have argument : |((t * ln2Approx : ℚ) : ℝ) - t * Real.log 2| ≤ 1 / 10 ^ 17 := by
    have t_le : |(t : ℝ)| ≤ 1 := by
      rw [abs_of_nonneg (by exact_mod_cast t0)]
      exact_mod_cast t1.le
    rw [Rat.cast_mul, ← mul_sub, abs_mul]
    exact (mul_le_mul t_le abs_ln2Approx_sub_log_two_le (abs_nonneg _) zero_le_one).trans (by norm_num)
  exact abs_pow2_mul_sub_le (abs_sub_exp_le_of_near mantissa (by exact_mod_cast r0) argument) power

theorem abs_expUncapped_sub_le {x : ℚ} (hx : |x| ≤ 1000) : |(expUncapped x : ℝ) - Real.exp x| ≤ Real.exp x / 10 ^ 15 := by
  obtain ⟨ln2_low, ln2_high⟩ := ln2Approx_mem
  obtain ⟨x_low, x_high⟩ := abs_le.1 hx
  have floor_le := (le_div_iff₀ (by linarith)).1 (Int.floor_le (x / ln2Approx))
  have lt_floor := (div_lt_iff₀ (by linarith)).1 (Int.lt_floor_add_one (x / ln2Approx))
  unfold expUncapped
  set n := ⌊x / ln2Approx⌋
  have n_low : (-2003 : ℚ) ≤ n := by nlinarith
  have n_high : (n : ℚ) ≤ 2003 := by nlinarith
  have r0 : 0 ≤ x - n * ln2Approx := by linarith
  have mantissa := abs_max_one_sub_exp_le r0 (by linarith) (abs_toGridUp_sub_le (expSmall (x - n * ln2Approx)))
  have argument : |((x - n * ln2Approx : ℚ) : ℝ) - (x - n * Real.log 2)| ≤ 1 / 10 ^ 17 := by
    have n_le : |(n : ℝ)| ≤ 2003 := by exact_mod_cast abs_le.2 ⟨n_low, n_high⟩
    have e : ((x - n * ln2Approx : ℚ) : ℝ) - (x - n * Real.log 2) = -(n * ((ln2Approx : ℝ) - Real.log 2)) := by
      push_cast
      ring
    rw [e, abs_neg, abs_mul]
    exact (mul_le_mul n_le abs_ln2Approx_sub_log_two_le (abs_nonneg _) (by norm_num)).trans (by norm_num)
  have power : Real.exp x = (2 : ℝ) ^ n * Real.exp (x - n * Real.log 2) := by
    rw [Real.exp_sub, mul_comm (n : ℝ), Real.exp_mul, Real.exp_log two_pos, Real.rpow_intCast]
    field_simp
  exact abs_pow2_mul_sub_le (abs_sub_exp_le_of_near mantissa (by exact_mod_cast r0) argument) power

/-- The cap `1 / (1 - x)` of a negative exponent lies above the true value, so it adds no error. -/
theorem abs_exp_sub_le {x : ℚ} (hx : |x| ≤ 1000) : |(exp x : ℝ) - Real.exp x| ≤ Real.exp x / 10 ^ 15 := by
  rw [exp_eq]
  split
  · next hneg =>
    have hneg' : (x : ℝ) < 0 := by exact_mod_cast hneg
    have cap : Real.exp x ≤ 1 / (1 - x) := by
      rw [le_div_iff₀ (by linarith), ← le_div_iff₀' (Real.exp_pos _), one_div, ← Real.exp_neg]
      linarith [Real.add_one_le_exp (-(x : ℝ))]
    push_cast
    calc _ = |min (expUncapped x : ℝ) (1 / (1 - x)) - min (Real.exp x) (1 / (1 - x))| := by rw [min_eq_left cap]
      _ ≤ |(expUncapped x : ℝ) - Real.exp x| := by
        simpa using abs_min_sub_min_le_max (expUncapped x : ℝ) (1 / (1 - x)) (Real.exp x) (1 / (1 - x))
      _ ≤ _ := abs_expUncapped_sub_le hx
  · exact abs_expUncapped_sub_le hx

/-- Settles O60, function by function. -/
theorem powersLogarithmAndRootAreAccurate : Obligations.PowersLogarithmAndRootAreAccurate := by
  unfold Obligations.PowersLogarithmAndRootAreAccurate
  exact ⟨abs_exp2_sub_le, fun x => abs_exp_sub_le, fun x => abs_ln_sub_log_le, fun x => sqrt_accurate⟩

end Sys2Proof.Numeric
end

section
/-! O58: both numeric configurations have R8's properties, and the default parameters over either are in range (00_scope.md R8,
93_implementation_defined.md U2, 43_reverb.md R239). -/

namespace Sys2Proof

set_option linter.unusedSectionVars false

/-! ### The spec's default NUM -/

theorem realNum_exact : ExactNum realNum := fun _ => rfl

theorem realNum_lawful : LawfulNum realNum where
  exp2_zero := Real.rpow_zero 2
  exp2_succ x := (Real.rpow_add_one two_ne_zero x).trans (mul_comm _ _)
  sin2pi_zero := by simp [realNum]
  sin2pi_le _ := Real.abs_sin_le_one _
  cos2pi_le _ := Real.abs_cos_le_one _
  exp_pos x _ := Real.exp_pos x
  exp_lt_one _ hx := Real.exp_lt_one_iff.2 hx
  sqrt_nonneg := Real.sqrt_nonneg

theorem realNum_positive : PositiveNum realNum where
  pi_pos := Real.pi_pos
  exp2_pos := Real.rpow_pos_of_pos two_pos

/-! ### The default parameters over an exact and lawful NUM -/

section
variable {α : Type} [Field α] [LinearOrder α] [IsStrictOrderedRing α] [FloorRing α] {N : Num α}

/-- R239: whatever the logarithms of R238 are exactly, `ln(0.02) < ln(0.7) < 0` puts REV_FEEDBACK in (0, 1) from a reverberance of 0 on:
the exponent is negative. -/
theorem revFeedback_mem (hE : ExactNum N) (hL : LawfulNum N) (hlt : N.lnFn (2 / 100) < N.lnFn (7 / 10)) (hneg : N.lnFn (7 / 10) < 0)
    {R : α} (hR : 0 ≤ R) : 0 ≤ Config.revFeedback N R ∧ Config.revFeedback N R < 1 := by
  have hr : ∀ x, N.rnd x = x := hE
  simp only [Config.revFeedback, hr]
  set a := -1 / N.lnFn (7 / 10) with ha
  set b := 100 / (N.lnFn (2 / 100) * a + 1) with hb
  have a_pos : 0 < a := div_pos_of_neg_of_neg (by norm_num) hneg
  have inv_a : N.lnFn (7 / 10) * a = -1 := by rw [ha]; field_simp [hneg.ne]
  have b_neg : b < 0 := div_neg_of_pos_of_neg (by norm_num) (by nlinarith)
  have exponent_neg : (R - b) / (a * b) < 0 := div_neg_of_pos_of_neg (by linarith) (mul_neg_of_pos_of_neg a_pos b_neg)
  have := hL.exp_pos _ exponent_neg
  have := hL.exp_lt_one _ exponent_neg
  constructor <;> linarith

theorem revDamp_mem (hE : ExactNum N) {R : α} (h0 : 0 ≤ R) (h100 : R ≤ 100) :
    0 ≤ Config.revDamp N R ∧ Config.revDamp N R < 1 := by
  have hr : ∀ x, N.rnd x = x := hE
  simp only [Config.revDamp, hr]
  constructor <;> linarith

/-- R202: the reverberance of a depth of seven bits is a percentage. -/
theorem reverberance_mem (hE : ExactNum N) {d : Nat} (hd : d < 128) :
    0 ≤ Machine.reverberance N d ∧ Machine.reverberance N d ≤ 100 := by
  have hd' : (d : α) ≤ 127 := by exact_mod_cast Nat.le_of_lt_succ hd
  have h0 : (0 : α) ≤ d := Nat.cast_nonneg d
  simp only [Machine.reverberance, Machine.natQ, mul_exact hE, div_exact hE]
  constructor
  · positivity
  · rw [div_le_iff₀ (by norm_num)]; linarith

theorem defaults_checkSizes : (Config.defaults N).checkSizes = true := by
  simp [Params.checkSizes, Config.defaults]

theorem defaults_checkPiano (hE : ExactNum N) : (Config.defaults N).checkPiano = true := by
  have hr : ∀ x, N.rnd x = x := hE
  have durations : ∀ p < 128, 1 ≤ Config.pianoDur p := by decide
  have envelope : breakpointsRise (Config.pianoEnv : List (α × α)) = true := by
    norm_num [Config.pianoEnv, breakpointsRise]
  simp only [Params.checkPiano, Config.defaults, hr, envelope, Config.pianoPartials, Bool.and_eq_true, decide_eq_true_eq,
    List.all_eq_true, List.mem_range, List.length_map, List.length_range]
  refine ⟨⟨⟨⟨⟨⟨trivial, by norm_num⟩, durations⟩, ?_⟩, ?_⟩, ?_⟩, trivial⟩ <;> simp [Config.pianoEnv]

theorem defaults_checkVoice (hE : ExactNum N) : (Config.defaults N).checkVoice = true := by
  have hr : ∀ x, N.rnd x = x := hE
  have : ∀ d : Nat, d < 128 → (0 : α) ≤ (d : α) / 128 ∧ (0 : α) ≤ (d : α) / 16 := fun d _ => ⟨by positivity, by positivity⟩
  norm_num [Params.checkVoice, Config.defaults, hr]
  exact this

theorem defaults_checkChorus : (Config.defaults N).checkChorus = true := by
  norm_num [Params.checkChorus, Config.defaults, Config.chTaps]

theorem defaults_checkEcho : (Config.defaults N).checkEcho = true := by
  simp [Params.checkEcho, Config.defaults]

theorem defaults_checkPan (hE : ExactNum N) : (Config.defaults N).checkPan = true := by
  have hr : ∀ x, N.rnd x = x := hE
  have share : ∀ p : Nat, p < 128 → (0 : α) ≤ (p : α) / 127 ∧ (p : α) / 127 ≤ 1 := fun p hp =>
    ⟨by positivity, (div_le_one (by norm_num)).2 (by exact_mod_cast Nat.le_of_lt_succ hp)⟩
  simp only [Params.checkPan, Config.defaults, hr, List.all_eq_true, List.mem_range, decide_eq_true_eq]
  intro p hp
  obtain ⟨h0, h1⟩ := share p hp
  exact ⟨by linarith, by linarith, h0, h1⟩

theorem defaults_checkReverb (hE : ExactNum N) (hL : LawfulNum N) (hlt : N.lnFn (2 / 100) < N.lnFn (7 / 10))
    (hneg : N.lnFn (7 / 10) < 0) : (Config.defaults N).checkReverb = true := by
  have laws : ∀ d < 128, d = 0 ∨ (0 ≤ Config.revFeedback N (Machine.reverberance N d)
      ∧ Config.revFeedback N (Machine.reverberance N d) < 1 ∧ 0 ≤ Config.revDamp N (Machine.reverberance N d)
      ∧ Config.revDamp N (Machine.reverberance N d) < 1) := fun d hd => by
    obtain ⟨h0, h100⟩ := reverberance_mem hE hd
    exact .inr ⟨(revFeedback_mem hE hL hlt hneg h0).1, (revFeedback_mem hE hL hlt hneg h0).2, revDamp_mem hE h0 h100⟩
  have allPass : (-1 : α) < 1 / 2 ∧ (1 / 2 : α) < 1 := by norm_num
  simpa [Params.checkReverb, Config.defaults] using ⟨by simpa using allPass, laws⟩

/-- U2, R239: the default parameters are in range over every exact and lawful NUM whose logarithms are in order. -/
theorem defaults_inRange (hE : ExactNum N) (hL : LawfulNum N) (hlt : N.lnFn (2 / 100) < N.lnFn (7 / 10))
    (hneg : N.lnFn (7 / 10) < 0) : (Config.defaults N).InRange where
  checked := by
    simp only [Params.wellFormed, Bool.and_eq_true]
    exact ⟨⟨⟨⟨⟨⟨defaults_checkSizes, defaults_checkPiano hE⟩, defaults_checkVoice hE⟩, defaults_checkChorus⟩, defaults_checkEcho⟩,
      defaults_checkReverb hE hL hlt hneg⟩, defaults_checkPan hE⟩
  feedback _ h0 _ := revFeedback_mem hE hL hlt hneg h0
  damp _ h0 h100 := revDamp_mem hE h0 h100

end

theorem realParams_inRange : Config.realParams.InRange :=
  defaults_inRange realNum_exact realNum_lawful (Real.log_lt_log (by norm_num) (by norm_num))
    (Real.log_neg (by norm_num) (by norm_num))

/-- The two logarithms of R238 are in order in the running machine too: they are near the true ones, and those are far apart. -/
theorem Numeric.ln_order : Numeric.ln (2 / 100) < Numeric.ln (7 / 10) ∧ Numeric.ln (7 / 10) < 0 := by
  have near_two := Numeric.abs_ln_sub_log_le (x := 2 / 100) (by norm_num)
  have near_seven := Numeric.abs_ln_sub_log_le (x := 7 / 10) (by norm_num)
  push_cast at near_two near_seven
  have two_low := Real.one_sub_inv_le_log_of_pos (show (0 : ℝ) < 2 / 100 by norm_num)
  have two_high := Real.log_le_sub_one_of_pos (show (0 : ℝ) < 2 / 100 by norm_num)
  have seven_low := Real.one_sub_inv_le_log_of_pos (show (0 : ℝ) < 7 / 10 by norm_num)
  have seven_high := Real.log_le_sub_one_of_pos (show (0 : ℝ) < 7 / 10 by norm_num)
  norm_num only at two_low two_high seven_low seven_high
  rw [abs_of_neg (by linarith : Real.log (2 / 100) < 0), abs_le] at near_two
  rw [abs_of_neg (by linarith : Real.log (7 / 10) < 0), abs_le] at near_seven
  have order : (Numeric.ln (2 / 100) : ℝ) < Numeric.ln (7 / 10) := by linarith
  have neg : (Numeric.ln (7 / 10) : ℝ) < 0 := by linarith
  exact ⟨by exact_mod_cast order, by exact_mod_cast neg⟩

theorem params_inRange : Config.params.InRange :=
  defaults_inRange exactNum_exact Numeric.exactNum_lawful Numeric.ln_order.1 Numeric.ln_order.2

/-- Settles O58: R8's properties by the shape of each configuration's functions, and the range of the defaults from them. -/
theorem numericConfigurationsAreLawful : Obligations.NumericConfigurationsAreLawful := by
  unfold Obligations.NumericConfigurationsAreLawful
  exact ⟨⟨realNum_lawful, realNum_positive, realNum_exact, fun _ => trivial, realParams_inRange⟩, Numeric.exactNum_lawful,
    Numeric.exactNum_positive, exactNum_exact, fun _ => trivial, params_inRange⟩

end Sys2Proof
end

section
/-! What the operations of the commands do, element by element: to each voice of a channel, to each owner's effect units, to each field of
the state. The invariant (O10 to O12) and the writers (O13, O14) are both read off these. -/

namespace Sys2Proof.Machine

set_option linter.unusedSectionVars false

variable {α : Type} [Field α] [LinearOrder α] [FloorRing α] {P : Params α}

/-! ### Lists that change element by element -/

theorem forall_mem_of_forall₂ {β : Type} {R : β → β → Prop} {Q : β → Prop} (hR : ∀ x x', R x x' → Q x → Q x') {xs xs' : List β}
    (h : List.Forall₂ R xs xs') (hQ : ∀ x ∈ xs, Q x) : ∀ x ∈ xs', Q x := by
  induction h with
  | nil => exact hQ
  | cons hx _ ih =>
    obtain ⟨q, qs⟩ := List.forall_mem_cons.1 hQ
    exact List.forall_mem_cons.2 ⟨hR _ _ hx q, ih qs⟩

theorem map_eq_of_forall₂ {β γ : Type} {R : β → β → Prop} {g : β → γ} (hR : ∀ x x', R x x' → g x' = g x) {xs xs' : List β}
    (h : List.Forall₂ R xs xs') : xs'.map g = xs.map g := by
  induction h with
  | nil => rfl
  | cons hx _ ih => rw [List.map_cons, List.map_cons, hR _ _ hx, ih]

theorem exists_getElem?_of_forall₂ {β : Type} {R : β → β → Prop} {xs xs' : List β} (h : List.Forall₂ R xs xs') {k : Nat} {x : β}
    (hx : xs[k]? = some x) : ∃ x', xs'[k]? = some x' ∧ R x x' := by
  induction h generalizing k with
  | nil => cases hx
  | cons hR _ ih =>
    cases k with
    | zero => cases hx; exact ⟨_, rfl, hR⟩
    | succ k => exact ih hx

/-! ### What a command does to the voices of a channel, slot by slot (44_channel_commands.md) -/

/-- NOTEOFF leaves a voice as it is or releases it (R255). -/
theorem releaseFirst_forall₂ (p : BitVec 7) (vel : Nat) (vs : List (Voice α)) :
    List.Forall₂ (fun v v' => v' = v ∨ v' = v.release P vel) vs (releaseFirst P p vel vs) := by
  have same (us : List (Voice α)) : List.Forall₂ (fun v v' => v' = v ∨ v' = v.release P vel) us us :=
    List.forall₂_same.2 fun _ _ => .inl rfl
  induction vs with
  | nil => exact .nil
  | cons t rest ih =>
    unfold releaseFirst
    split
    · split
      · exact same _
      · exact .cons (.inr rfl) (same _)
    · exact .cons (.inl rfl) ih

/-- PBEND leaves a voice as it is or bends it (R258). -/
theorem bendLast_forall₂ (b : α) (vs : List (Voice α)) :
    List.Forall₂ (fun v v' => v' = v ∨ v' = { v with bend := b }) vs (bendLast b vs) := by
  induction vs with
  | nil => exact .nil
  | cons t rest ih =>
    cases rest with
    | nil => exact .cons (.inr rfl) .nil
    | cons u rest => exact .cons (.inl rfl) ih

/-- A register write leaves the bookkeeping and the voices alone (R260). -/
theorem writeReg_keeps {ch ch' : Channel α} {idx : Nat} {data : Word} (e : ch.writeReg idx data = some ch') :
    ch'.voices = ch.voices ∧ ch'.lastPitch = ch.lastPitch ∧ ch'.peak = ch.peak := by
  unfold Channel.writeReg at e
  split at e <;> cases e <;> exact ⟨rfl, rfl, rfl⟩

theorem write_keeps (ch : Channel α) (idx : BitVec 8) (data : Word) :
    (ch.write idx data).lastPitch = ch.lastPitch ∧ (ch.write idx data).peak = ch.peak := by
  unfold Channel.write
  split
  · exact ⟨rfl, rfl⟩
  · next ch' e =>
    obtain ⟨-, lastPitch, peak⟩ := writeReg_keeps e
    split <;> exact ⟨lastPitch, peak⟩

/-- WRCH moves the pedal of every voice where it writes SUSTAIN, and leaves the voices alone elsewhere (R260, R262). -/
theorem write_forall₂ (ch : Channel α) (idx : BitVec 8) (data : Word) :
    List.Forall₂ (fun v v' => v' = v ∨ idx = 0x06 ∧ ∃ down, v' = v.pedal down) ch.voices (ch.write idx data).voices := by
  by_cases hidx : idx = 0x06
  · subst hidx
    exact List.forall₂_map_right_iff.2 (List.forall₂_same.2 fun _ _ => .inr ⟨rfl, _, rfl⟩)
  · rw [write_voices ch idx data hidx]
    exact List.forall₂_same.2 fun _ _ => .inl rfl

/-- A voice that goes on has its tone moved on by its output, and the rest by `moveOn` (40_voice.md R131). -/
theorem eq_moveOn_of_advance {mem : WaveMem} {ch : Channel α} {v v' : Voice α} {o : Stereo α}
    (e : v.advance P mem ch = some (o, v')) :
    v' = ({ v with tone := (v.output P mem).2 } : Voice α).moveOn P ch (v.frequency P.num) := by
  have live : v.terminated P = false := by
    by_contra ht
    rw [(advance_eq_none P mem ch v).2 (by simpa using ht)] at e
    cases e
  rw [advance_eq_some P mem ch v live] at e
  cases e
  rfl

/-! ### What a FRAME does to the effect units, owner by owner (45_frame_mixer.md R287, R291) -/

/-- A FRAME leaves an owner's units as they are or runs them once. -/
abbrev RunOrKept (P : Params α) (x x' : FxUnits α) : Prop := x' = x ∨ ∃ b dry, x' = (x.run P b dry).2

theorem runShared_forall₂ (fx : List (FxUnits α)) (b : Buses α) (dry : Stereo α) :
    List.Forall₂ (RunOrKept P) fx (runShared P fx b dry).2 := by
  cases fx with
  | nil => exact .nil
  | cons x rest => exact .cons (.inr ⟨_, _, rfl⟩) (List.forall₂_same.2 fun _ _ => .inl rfl)

theorem mixPrivate_forall₂ (mem : WaveMem) (chs : List (Channel α)) (fx : List (FxUnits α)) (dry : Stereo α) :
    List.Forall₂ (RunOrKept P) fx (mixPrivate P mem chs fx dry).2.2 := by
  induction chs generalizing fx dry with
  | nil => exact List.forall₂_same.2 fun _ _ => .inl rfl
  | cons ch rest ih =>
    cases fx with
    | nil => exact ih _ _
    | cons x fx => exact .cons (.inr ⟨_, _, rfl⟩) (ih _ _)

theorem mixBlock_fx_forall₂ (s : State α) : List.Forall₂ (RunOrKept P) s.fx (mixBlock P s).2.2 := by
  unfold mixBlock
  cases P.topology
  case shared => exact runShared_forall₂ _ _ _
  case priv => exact mixPrivate_forall₂ _ _ _ _

/-! ### FRAME and REWIND keep the effect configuration (10_state.md R58, R61) -/

theorem addChorus_depth (dry s : Stereo α) (x : Chorus α) : (addChorus P dry x s).2.depth = x.depth := by
  unfold addChorus Chorus.process
  split_ifs <;> rfl

theorem addEcho_depth (dry s : Stereo α) (x : Echo α) : (addEcho P dry x s).2.depth = x.depth := by
  unfold addEcho Echo.process
  split_ifs <;> rfl

theorem predelay_config (x0 : α) (v : Reverb α) :
    (v.predelay P x0).2.depth = v.depth ∧ (v.predelay P x0).2.fb = v.fb ∧ (v.predelay P x0).2.damp = v.damp := by
  unfold Reverb.predelay
  split <;> exact ⟨rfl, rfl, rfl⟩

theorem addReverb_config (dry s : Stereo α) (v : Reverb α) :
    (addReverb P dry v s).2.depth = v.depth ∧ (addReverb P dry v s).2.fb = v.fb ∧ (addReverb P dry v s).2.damp = v.damp := by
  unfold addReverb Reverb.process
  split_ifs
  · exact ⟨rfl, rfl, rfl⟩
  · exact predelay_config _ v
  · exact ⟨rfl, rfl, rfl⟩

theorem run_config (b : Buses α) (dry : Stereo α) (x : FxUnits α) : (x.run P b dry).2.config = x.config := by
  obtain ⟨depth, fb, damp⟩ := addReverb_config (P := P) (addEcho P (addChorus P dry x.chorus b.chorus).1 x.echo b.echo).1 b.reverb x.reverb
  simp only [FxUnits.config, FxUnits.run, addChorus_depth, addEcho_depth, depth, fb, damp]

theorem mixBlock_fx_config (s : State α) : (mixBlock P s).2.2.map FxUnits.config = s.fx.map FxUnits.config := by
  refine map_eq_of_forall₂ ?_ (mixBlock_fx_forall₂ (P := P) s)
  rintro x x' (rfl | ⟨b, dry, rfl⟩)
  · rfl
  · exact run_config b dry x

theorem rewindOp_fx_config (s : State α) : (rewindOp s).fx.map FxUnits.config = s.fx.map FxUnits.config :=
  List.map_map.trans rfl

/-! ### What a command of one channel, owner or descriptor writes -/

theorem onChannel_writes (s : State α) (c : Nat) (f : Channel α → Channel α) : ∃ chs, s.onChannel c f = { s with channels := chs } := by
  rcases onChannel_cases s c f with ⟨_, -, e⟩ | ⟨-, e⟩ <;> exact ⟨_, e⟩

/-- The index check of a channel command in front of it (30_encoding.md R112). -/
theorem guarded_onChannel_writes (g : Prop) [Decidable g] (s : State α) (c : Nat) (f : Channel α → Channel α) :
    ∃ chs, (if g then s.onChannel c f else s) = { s with channels := chs } := by
  split
  · exact onChannel_writes s c f
  · exact ⟨_, rfl⟩

theorem noteOffOp_writes (c : BitVec 8) (p v : BitVec 7) (s : State α) : ∃ chs, noteOffOp P c p v s = { s with channels := chs } :=
  guarded_onChannel_writes _ _ _ _

theorem noteOnOp_writes (c : BitVec 8) (p v : BitVec 7) (s : State α) : ∃ chs, noteOnOp P c p v s = { s with channels := chs } := by
  unfold noteOnOp
  split_ifs
  · exact noteOffOp_writes _ _ _ _
  · exact onChannel_writes _ _ _
  · exact ⟨_, rfl⟩

theorem pitchBendOp_writes (c : BitVec 8) (lsb msb : BitVec 7) (s : State α) :
    ∃ chs, pitchBendOp P c lsb msb s = { s with channels := chs } :=
  guarded_onChannel_writes _ _ _ _

theorem writeChannelOp_writes (c idx : BitVec 8) (data : Word) (s : State α) :
    ∃ chs, writeChannelOp P c idx data s = { s with channels := chs } :=
  guarded_onChannel_writes _ _ _ _

theorem fxStartOp_writes (owner u : BitVec 8) (depth : BitVec 7) (s : State α) :
    ∃ fx, fxStartOp P owner u depth s = { s with fx := fx } := by
  unfold fxStartOp
  split_ifs
  · exact ⟨_, rfl⟩
  · exact ⟨_, rfl⟩
  · exact ⟨_, rfl⟩
  · rcases onOwner_cases s (ownerIndex P owner.toNat) fun x => x.start P u.toNat depth with ⟨_, -, e⟩ | ⟨-, e⟩ <;> exact ⟨_, e⟩

theorem writeDescriptorOp_writes (d field : BitVec 8) (data : Word) (s : State α) :
    ∃ wd, writeDescriptorOp P d field data s = { s with wd := wd } := by
  unfold writeDescriptorOp
  split
  · rcases onDescriptor_cases s d.toNat fun x => (x.writeField field.toNat data).getD x with ⟨_, -, e⟩ | ⟨-, e⟩ <;> exact ⟨_, e⟩
  · exact ⟨_, rfl⟩

/-! ### The step -/

/-- The running machine's command is the one of the default build (log 2). -/
theorem exec_eq_next_commandOp (i : Instr) (s : State) : exec i s = .next (commandOp Config.params i s) := by
  cases i <;> rfl

/-- R76: a partial word is no command. -/
theorem decodeBytes_eq_none {bytes : List Byte} (h : bytes.length < 8) : decodeBytes bytes = none := by
  unfold decodeBytes
  split
  · simp only [List.length_cons] at h
    omega
  · rfl

end Sys2Proof.Machine
end

section
/-! O10, O11, O12: the invariant of the state (10_state.md R20 to R61). Each part of the state has its own invariant, and every operation on
that part keeps it; the commands are assembled from the parts. -/

namespace Sys2Proof

set_option linter.unusedSectionVars false

variable {α : Type} [Field α] [LinearOrder α] [IsStrictOrderedRing α] [FloorRing α]

/-! ### What a well-formed parameter record gives (93_implementation_defined.md U2) -/

theorem le_foldl_max {β : Type} [LinearOrder β] {x : β} {xs : List β} (a : β) (h : x ∈ xs) : x ≤ xs.foldl max a := by
  rw [List.foldl_eq_foldr]
  exact List.le_max_of_le' a h le_rfl

theorem Params.wellFormed_iff (P : Params α) :
    P.wellFormed = true ↔ P.checkSizes = true ∧ P.checkPiano = true ∧ P.checkVoice = true ∧ P.checkChorus = true
      ∧ P.checkEcho = true ∧ P.checkReverb = true ∧ P.checkPan = true := by
  simp [Params.wellFormed, and_assoc]

section
variable {P : Params α} (hP : P.wellFormed = true)
include hP

theorem fs_pos : 0 < P.fs := by
  have sizes := ((Params.wellFormed_iff P).1 hP).1
  simp only [Params.checkSizes, Bool.and_eq_true, decide_eq_true_eq] at sizes
  omega

theorem bwMin_pos : 0 < P.bwMin := by
  obtain ⟨-, -, voice, -⟩ := (Params.wellFormed_iff P).1 hP
  simp only [Params.checkVoice, Bool.and_eq_true, decide_eq_true_eq] at voice
  obtain ⟨⟨-, bw⟩, -⟩ := voice
  exact bw

/-- The vibrato depth of a register value is between 0 and the largest of them. -/
theorem vibDepth_mem (d : BitVec 7) : 0 ≤ P.vibDepth d.toNat ∧ P.vibDepth d.toNat ≤ Machine.vibBound P := by
  obtain ⟨-, -, voice, -⟩ := (Params.wellFormed_iff P).1 hP
  simp only [Params.checkVoice, Bool.and_eq_true, decide_eq_true_eq, List.all_eq_true, List.mem_range] at voice
  have hd : d.toNat < 128 := d.isLt
  exact ⟨(voice.2 d.toNat hd).1, le_foldl_max 0 (List.mem_map_of_mem (List.mem_range.2 hd))⟩

theorem chLfoPeriod_pos : 0 < P.chLfoPeriod := by
  obtain ⟨-, -, -, chorus, -⟩ := (Params.wellFormed_iff P).1 hP
  simp only [Params.checkChorus, Bool.and_eq_true, decide_eq_true_eq] at chorus
  obtain ⟨⟨-, period⟩, -⟩ := chorus
  exact period

/-- The chorus history is not empty: there is a tap, and a tap's delay is at least 1. -/
theorem chorusLen_pos : 0 < P.chorusLen := by
  obtain ⟨-, -, -, chorus, -⟩ := (Params.wellFormed_iff P).1 hP
  simp only [Params.checkChorus, Bool.and_eq_true, decide_eq_true_eq, List.all_eq_true] at chorus
  obtain ⟨⟨⟨⟨⟨taps, -⟩, delays⟩, -⟩, -⟩, -⟩ := chorus
  obtain ⟨t, ht⟩ := List.exists_mem_of_length_pos taps
  exact (delays t ht).trans (le_foldl_max 0 (List.mem_map_of_mem ht))

theorem echoLen_pos : 0 < P.echoLen := by
  obtain ⟨-, -, -, -, echo, -⟩ := (Params.wellFormed_iff P).1 hP
  simp only [Params.checkEcho, Bool.and_eq_true, decide_eq_true_eq] at echo
  have := echo.1
  unfold Params.echoLen
  omega

/-- The reverb has eight combs and four all-passes a side, none of length 0. -/
theorem reverb_lengths : (P.combLen.length = 8 ∧ ∀ l ∈ P.combLen, 0 < l) ∧ (P.apLen.length = 4 ∧ ∀ l ∈ P.apLen, 0 < l) := by
  obtain ⟨-, -, -, -, -, reverb, -⟩ := (Params.wellFormed_iff P).1 hP
  simp only [Params.checkReverb, Bool.and_eq_true, decide_eq_true_eq, List.all_eq_true] at reverb
  obtain ⟨⟨⟨⟨⟨combs, aps⟩, comb_pos⟩, ap_pos⟩, -⟩, -⟩ := reverb
  exact ⟨⟨combs, comb_pos⟩, ⟨aps, ap_pos⟩⟩

/-- R239: the coefficients FXSTART computes from a depth above 0 are stable. -/
theorem reverb_coefficients_mem {d : BitVec 7} (hd : d ≠ 0) :
    0 ≤ P.revFeedback (Machine.reverberance P.num d.toNat) ∧ P.revFeedback (Machine.reverberance P.num d.toNat) < 1
      ∧ 0 ≤ P.revDamp (Machine.reverberance P.num d.toNat) ∧ P.revDamp (Machine.reverberance P.num d.toNat) < 1 := by
  obtain ⟨-, -, -, -, -, reverb, -⟩ := (Params.wellFormed_iff P).1 hP
  simp only [Params.checkReverb, Bool.and_eq_true, Bool.or_eq_true, beq_iff_eq, decide_eq_true_eq, List.all_eq_true,
    List.mem_range] at reverb
  have hd0 : d.toNat ≠ 0 := fun e => hd (BitVec.eq_of_toNat_eq e)
  exact (reverb.2 d.toNat d.isLt).resolve_left hd0

end

namespace Machine

/-! ### The coefficients of the filters (41_filters.md) -/

section
variable {P : Params α} (hE : ExactNum P.num) (hpos : PositiveNum P.num)

include hE hpos in
theorem rcOf_nonneg (fc : α) : 0 ≤ rcOf P fc := by
  have half : (0 : α) ≤ P.num.div (natQ P.fs) 2 := by
    rw [div_exact hE]
    exact div_nonneg (Nat.cast_nonneg _) zero_le_two
  have cutoff := (clamp_mem fc 0 _ half).1
  unfold rcOf
  dsimp only
  split
  · exact le_rfl
  · rw [div_exact hE, mul_exact hE, mul_exact hE]
    have := hpos.pi_pos
    positivity

include hE hpos in
/-- R181: the low-pass coefficient lies in (0, 1]. -/
theorem lpCoef_mem (fc : α) : 0 < lpCoef P fc ∧ lpCoef P fc ≤ 1 := by
  have rc := rcOf_nonneg hE hpos fc
  have : 0 ≤ rcOf P fc * natQ P.fs := mul_nonneg rc (Nat.cast_nonneg _)
  rw [lpCoef, div_exact hE, add_exact hE, mul_exact hE]
  exact ⟨by positivity, (div_le_one (by positivity)).2 (by linarith)⟩

theorem clamp_pos (x : α) {lo hi : α} (hlo : 0 < lo) (hhi : 0 < hi) : 0 < clamp x lo hi := by
  unfold clamp
  split
  · exact hlo
  · split
    · exact hhi
    · exact hlo.trans_le (not_lt.1 ‹_›)

include hE hpos in
/-- R185, R187: `c = exp(-2 * pi * bw / FS)` lies in (0, 1), the clamped bandwidth being positive. -/
theorem bpCoef_c_mem (hL : LawfulNum P.num) (hP : P.wellFormed = true) (fc bw : α) (mode : ScaleMode) :
    0 < (bpCoef P fc bw mode).c ∧ (bpCoef P fc bw mode).c < 1 := by
  have fs : (0 : α) < natQ P.fs := Nat.cast_pos.2 (fs_pos hP)
  have width : 0 < clamp bw P.bwMin (P.num.div (natQ P.fs) 2) := by
    refine clamp_pos bw (bwMin_pos hP) ?_
    rw [div_exact hE]
    positivity
  have exponent : -2 * P.num.piConst * clamp bw P.bwMin (P.num.div (natQ P.fs) 2) / natQ P.fs < 0 := by
    have : 0 < P.num.piConst * clamp bw P.bwMin (P.num.div (natQ P.fs) 2) := mul_pos hpos.pi_pos width
    exact div_neg_of_neg_of_pos (by linarith) fs
  have c : (bpCoef P fc bw mode).c
      = P.num.expFn (-2 * P.num.piConst * clamp bw P.bwMin (P.num.div (natQ P.fs) 2) / natQ P.fs) := by
    simp only [bpCoef, exp_exact hE, div_exact hE, mul_exact hE]
  rw [c]
  exact ⟨hL.exp_pos _ exponent, hL.exp_lt_one _ exponent⟩

include hE hpos in
/-- R187: the resonator's poles are complex: `b = -4c/(1+c) * cos` with a cosine of at most 1, and `(4c/(1+c))^2 < 4c` below `c = 1`. -/
theorem bpCoef_poles (hL : LawfulNum P.num) (hP : P.wellFormed = true) (fc bw : α) (mode : ScaleMode) :
    (bpCoef P fc bw mode).b * (bpCoef P fc bw mode).b < 4 * (bpCoef P fc bw mode).c := by
  obtain ⟨c_pos, c_lt⟩ := bpCoef_c_mem hE hpos hL hP fc bw mode
  obtain ⟨k, k_le, b⟩ : ∃ k : α, |k| ≤ 1
      ∧ (bpCoef P fc bw mode).b = -(4 * (bpCoef P fc bw mode).c / (1 + (bpCoef P fc bw mode).c)) * k := by
    refine ⟨P.num.cos2pi (P.num.div (clamp fc 0 (P.num.div (natQ P.fs) 2)) (natQ P.fs)), ?_, ?_⟩
    · rw [cos2pi_exact hE]
      exact hL.cos2pi_le _
    · simp only [bpCoef, mul_exact hE, div_exact hE, add_exact hE]
  generalize (bpCoef P fc bw mode).c = c at c_pos c_lt b
  have k_sq : k * k ≤ 1 := by
    rw [← abs_mul_abs_self k]
    exact mul_le_one₀ k_le (abs_nonneg k) k_le
  have gain : (4 * c / (1 + c)) * (4 * c / (1 + c)) < 4 * c := by
    rw [div_mul_div_comm, div_lt_iff₀ (by positivity)]
    nlinarith [mul_pos c_pos (mul_pos (sub_pos.2 c_lt) (sub_pos.2 c_lt))]
  calc (bpCoef P fc bw mode).b * (bpCoef P fc bw mode).b = (4 * c / (1 + c)) * (4 * c / (1 + c)) * (k * k) := by rw [b]; ring
    _ ≤ (4 * c / (1 + c)) * (4 * c / (1 + c)) := mul_le_of_le_one_right (mul_self_nonneg _) k_sq
    _ < 4 * c := gain

end

/-! ### A voice and its variant (40_voice.md) -/

section
variable {P : Params α}

/-- The filter steps of a voice change its histories alone (R144, R145). -/
theorem FilterInv.filtered (N : Num α) {f : VoiceFilter α} (x : α) (h : FilterInv f) : FilterInv (f.filtered N x).2 :=
  ⟨h.lpA_pos, h.lpA_le, h.bpC_pos, h.bpC_lt, h.poles⟩

theorem ToneInv.output (mem : WaveMem) {v : Voice α} (h : ToneInv v.tone) : ToneInv (v.output P mem).2 := by
  unfold Voice.output
  cases ht : v.tone <;> rw [ht] at h
  case piano => trivial
  case square f => exact FilterInv.filtered P.num _ h
  case triangle f => exact FilterInv.filtered P.num _ h
  case sampled p => exact h

/-- R133: the frequency is always positive. -/
theorem frequency_pos (hE : ExactNum P.num) (hpos : PositiveNum P.num) (v : Voice α) : 0 < v.frequency P.num := by
  rw [Voice.frequency, keyFrequency, mul_exact hE, exp2_exact hE]
  exact mul_pos (by norm_num) (hpos.exp2_pos _)

/-- `fmod` by a positive divisor is not negative (00_scope.md section 6.1). -/
theorem fmod_nonneg {N : Num α} (hE : ExactNum N) (x : α) {s : α} (hs : 0 < s) : 0 ≤ N.fmod x s := by
  have := (le_div_iff₀ hs).1 (Int.floor_le (x / s))
  rw [fmod_exact hE]
  linarith

/-- R148: a sample's position stays non-negative, the loop wrap included. -/
theorem SampleInv.advance {N : Num α} (hE : ExactNum N) {f : α} (hf : 0 < f) {p : SamplePlay α} (h : SampleInv p) :
    SampleInv (p.advance N f) := by
  have moved : 0 ≤ p.pos + f / p.wFreq := add_nonneg h.pos_nonneg (div_nonneg hf.le h.freq_pos.le)
  unfold SamplePlay.advance
  simp only [add_exact hE, sub_exact hE, div_exact hE]
  split
  · next loop => exact { h with pos_nonneg := add_nonneg h.loopStart_nonneg (fmod_nonneg hE _ (sub_pos.2 loop.2.1)) }
  · exact { h with pos_nonneg := moved }

theorem ToneInv.advanceOscillator (hE : ExactNum P.num) {f : α} (hf : 0 < f) {v : Voice α} (h : ToneInv v.tone) :
    ToneInv (v.advanceOscillator P f).tone := by
  unfold Voice.advanceOscillator
  split
  · next p hp =>
    rw [hp] at h
    exact SampleInv.advance hE hf h
  · exact h

/-- R134: the phase stays in [0, 1). -/
theorem advanceOscillator_phase_mem (hE : ExactNum P.num) (f : α) {v : Voice α} (h0 : 0 ≤ v.phase) (h1 : v.phase < 1) :
    0 ≤ (v.advanceOscillator P f).phase ∧ (v.advanceOscillator P f).phase < 1 := by
  unfold Voice.advanceOscillator
  split
  · exact ⟨h0, h1⟩
  · dsimp only [nextPhase]
    rw [frac_exact hE]
    exact ⟨Int.fract_nonneg _, Int.fract_lt_one _⟩

/-- R150: the vibrato LFO stays within the depth of the channel's register, and so within the largest depth. -/
theorem vibratoStep_mem (hP : P.wellFormed = true) (ch : Channel α) (v : Voice α) :
    -vibBound P ≤ (v.vibratoStep P ch).vibM ∧ (v.vibratoStep P ch).vibM ≤ vibBound P := by
  obtain ⟨depth_nonneg, depth_le⟩ := vibDepth_mem hP ch.modDepth
  unfold Voice.vibratoStep
  dsimp only
  split
  · exact ⟨by linarith, depth_le⟩
  · split
    · exact ⟨by linarith, by linarith⟩
    · exact ⟨by linarith, by linarith⟩

/-- The clauses of the invariant about a voice's glide (R152): it rests at 0, or it moves toward 0. -/
structure GlideInv (off step : α) (on : Bool) : Prop where
  rest : on = false → off = 0
  sign : on = true → 0 < off * step
  low : -127 ≤ off
  high : off ≤ 127

theorem VoiceInv.glide {v : Voice α} (h : VoiceInv P v) : GlideInv v.portaOff v.portaStep v.portaOn :=
  ⟨h.porta_off, h.porta_sign, h.porta_low, h.porta_high⟩

theorem GlideInv.resting (step : α) : GlideInv 0 step false :=
  ⟨fun _ => rfl, nofun, by norm_num, by norm_num⟩

/-- R152: a glide that has not reached 0 keeps its sign and comes nearer to 0. -/
theorem GlideInv.portamentoStep {N : Num α} (hE : ExactNum N) {v : Voice α} (h : GlideInv v.portaOff v.portaStep v.portaOn) :
    GlideInv (v.portamentoStep N).portaOff v.portaStep (v.portamentoStep N).portaOn := by
  unfold Voice.portamentoStep
  rw [sub_exact hE]
  dsimp only
  split
  · next on =>
    split
    · exact GlideInv.resting _
    · next going =>
      simp only [ne_eq, not_or, not_not, decide_eq_decide] at going
      obtain ⟨ne_zero, same_sign⟩ := going
      rcases mul_pos_iff.1 (h.sign on) with ⟨off, step⟩ | ⟨off, step⟩
      · have left := same_sign.2 off
        exact ⟨fun e => Bool.noConfusion (on.symm.trans e), fun _ => mul_pos left step, by linarith, by linarith [h.high]⟩
      · have left : v.portaOff - v.portaStep < 0 :=
          lt_of_le_of_ne (not_lt.1 fun pos => off.not_gt (same_sign.1 pos)) ne_zero
        exact ⟨fun e => Bool.noConfusion (on.symm.trans e), fun _ => mul_pos_of_neg_of_neg left step, by linarith [h.low], by linarith⟩
  · exact h

theorem VoiceInv.moveOn (hP : P.wellFormed = true) (hE : ExactNum P.num) (ch : Channel α) {f : α} (hf : 0 < f) {v : Voice α}
    (h : VoiceInv P v) : VoiceInv P (v.moveOn P ch f) := by
  obtain ⟨vib_low, vib_high⟩ := (moveOn_vibrato P ch v f).1 ▸ vibratoStep_mem hP ch v
  obtain ⟨phase_nonneg, phase_lt⟩ := moveOn_phase P ch v f ▸ advanceOscillator_phase_mem hE f h.phase_nonneg h.phase_lt
  have glide : GlideInv (v.moveOn P ch f).portaOff (v.moveOn P ch f).portaStep (v.moveOn P ch f).portaOn := by
    rw [(moveOn_glide P ch v f).1, (moveOn_glide P ch v f).2, moveOn_portaStep]
    exact h.glide.portamentoStep hE
  have budget : (v.moveOn P ch f).relLeft ≤ (v.moveOn P ch f).relTotal := by
    rw [moveOn_relLeft, moveOn_relTotal]
    have := h.budget
    split <;> omega
  exact
    { tone := moveOn_tone P ch v f ▸ ToneInv.advanceOscillator hE hf h.tone
      vel := by simpa using h.vel
      bend_low := by simpa using h.bend_low
      bend_high := by simpa using h.bend_high
      vib_low, vib_high
      porta_off := glide.rest
      porta_sign := glide.sign
      porta_low := glide.low
      porta_high := glide.high
      phase_nonneg, phase_lt
      age := by rw [moveOn_age]; exact min_le_right _ _
      latch := by simpa using h.latch
      budget }

/-- R131: a voice that goes on meets the invariant after the frame. -/
theorem VoiceInv.advance (hP : P.wellFormed = true) (hE : ExactNum P.num) (hpos : PositiveNum P.num) (mem : WaveMem) (ch : Channel α)
    {v v' : Voice α} {o : Stereo α} (e : v.advance P mem ch = some (o, v')) (h : VoiceInv P v) : VoiceInv P v' := by
  rw [eq_moveOn_of_advance e]
  have played : VoiceInv P { v with tone := (v.output P mem).2 } := { h with tone := ToneInv.output mem h.tone }
  exact played.moveOn hP hE ch (frequency_pos hE hpos v)

/-- R255: a released voice has at most the whole release budget left. -/
theorem VoiceInv.release (vel : Nat) {v : Voice α} (h : VoiceInv P v) : VoiceInv P (v.release P vel) where
  tone := h.tone
  vel := h.vel
  bend_low := h.bend_low
  bend_high := h.bend_high
  vib_low := h.vib_low
  vib_high := h.vib_high
  porta_off := h.porta_off
  porta_sign := h.porta_sign
  porta_low := h.porta_low
  porta_high := h.porta_high
  phase_nonneg := h.phase_nonneg
  phase_lt := h.phase_lt
  age := h.age
  latch := rfl
  budget := by
    rw [release_relLeft, release_relTotal, releaseBudget]
    split
    · exact Nat.zero_le _
    · exact le_rfl

/-- The pedal flag is in no clause of the invariant (R262). -/
theorem VoiceInv.pedal (down : Bool) {v : Voice α} (h : VoiceInv P v) : VoiceInv P (v.pedal down) := by
  have held (b : Bool) : VoiceInv P { v with sus := b } := { h with }
  unfold Voice.pedal
  split
  · split
    · exact h
    · exact held true
  · exact held false

/-- R258: a bend lies within the largest bend range. -/
theorem bendSemitones_mem {N : Num α} (hE : ExactNum N) (b : BitVec 14) (range : BitVec 7) :
    -127 ≤ bendSemitones N b range ∧ bendSemitones N b range ≤ 127 := by
  have range_le : (range.toNat : α) ≤ 127 := by exact_mod_cast Nat.le_of_lt_succ range.isLt
  have b_le : (b.toNat : α) ≤ 16383 := by exact_mod_cast Nat.le_of_lt_succ b.isLt
  have range_nonneg : (0 : α) ≤ range.toNat := Nat.cast_nonneg _
  have b_nonneg : (0 : α) ≤ b.toNat := Nat.cast_nonneg _
  have share : |((b.toNat : α) - 8192) / 8192| ≤ 1 := by
    rw [abs_le, le_div_iff₀ (by norm_num), div_le_iff₀ (by norm_num)]
    constructor <;> linarith
  have semitones : |((b.toNat : α) - 8192) / 8192 * range.toNat| ≤ 127 := by
    rw [abs_mul, abs_of_nonneg range_nonneg]
    exact (mul_le_of_le_one_left range_nonneg share).trans range_le
  have value : bendSemitones N b range = ((b.toNat : α) - 8192) / 8192 * range.toNat := by
    rw [bendSemitones, mul_exact hE, div_exact hE, natQ]
    push_cast
    rfl
  rw [value]
  exact abs_le.1 semitones

/-! ### A new voice (44_channel_commands.md) -/

theorem newFilter_inv (hP : P.wellFormed = true) (hE : ExactNum P.num) (hL : LawfulNum P.num) (hpos : PositiveNum P.num)
    (ch : Channel α) (p : BitVec 7) : FilterInv (newFilter P ch p) := by
  obtain ⟨lpA_pos, lpA_le⟩ := lpCoef_mem hE hpos (P.cutoffHz ch.cutoff.toNat)
  obtain ⟨bpC_pos, bpC_lt⟩ := bpCoef_c_mem hE hpos hL hP (keyFrequency P.num (natQ p.toNat)) (P.resBwHz ch.resonance.toNat) .pitched
  exact ⟨lpA_pos, lpA_le, bpC_pos, bpC_lt, bpCoef_poles hE hpos hL hP _ _ .pitched⟩

/-- R251, R252: a descriptor that the search takes has a positive base frequency. -/
theorem newSample_inv (hE : ExactNum P.num) {d : Descriptor} (hd : 0 < d.baseFreq.toNat) : SampleInv (newSample P d) where
  pos_nonneg := le_rfl
  freq_pos := by
    have : (0 : α) < d.baseFreq.toNat := Nat.cast_pos.2 hd
    simp only [newSample, uq16_16, div_exact hE, natQ]
    positivity
  loopStart_nonneg := by
    simp only [newSample, uq24_8, div_exact hE, natQ]
    positivity
  loopEnd_nonneg := by
    simp only [newSample, uq24_8, div_exact hE, natQ]
    positivity

theorem baseFreq_pos_of_findDescriptor {wd : List Descriptor} {ch : Channel α} {p : BitVec 7} {d : Descriptor}
    (h : findDescriptor wd ch p = some d) : 0 < d.baseFreq.toNat := by
  have covers := List.find?_some h
  simp only [Descriptor.covers, Bool.and_eq_true, decide_eq_true_eq] at covers
  obtain ⟨⟨⟨⟨⟨-, freq⟩, -⟩, -⟩, -⟩, -⟩ := covers
  exact freq

theorem newTone_inv (hP : P.wellFormed = true) (hE : ExactNum P.num) (hL : LawfulNum P.num) (hpos : PositiveNum P.num)
    (wd : List Descriptor) (ch : Channel α) (p : BitVec 7) {t : Tone α} (e : newTone P wd ch p = some t) : ToneInv t := by
  unfold newTone at e
  split at e
  · cases e; trivial
  · cases e; exact newFilter_inv hP hE hL hpos ch p
  · cases e; exact newFilter_inv hP hE hL hpos ch p
  · obtain ⟨d, hd, rfl⟩ := Option.map_eq_some_iff.1 e
    exact newSample_inv hE (baseFreq_pos_of_findDescriptor hd)

/-- R254: a glide starts at the distance of two different keys and has a step of the same sign. -/
theorem newGlide_inv (hE : ExactNum P.num) (ch : Channel α) (p : BitVec 7) :
    GlideInv (newGlide P ch p).1 (newGlide P ch p).2.1 (newGlide P ch p).2.2 := by
  unfold newGlide
  dsimp only
  split
  · exact GlideInv.resting _
  · next q _ =>
    split
    · next glides =>
      obtain ⟨-, keys, samples⟩ := glides
      have off_ne : (q.toNat : α) - p.toNat ≠ 0 := fun e =>
        keys (BitVec.eq_of_toNat_eq (by exact_mod_cast sub_eq_zero.1 e))
      have samples_pos : (0 : α) < P.portaSamples ch.portaTime.toNat := Nat.cast_pos.2 samples
      have q_le : (q.toNat : α) ≤ 127 := by exact_mod_cast Nat.le_of_lt_succ q.isLt
      have p_le : (p.toNat : α) ≤ 127 := by exact_mod_cast Nat.le_of_lt_succ p.isLt
      have q_nonneg : (0 : α) ≤ q.toNat := Nat.cast_nonneg _
      have p_nonneg : (0 : α) ≤ p.toNat := Nat.cast_nonneg _
      simp only [sub_exact hE, div_exact hE, natQ]
      refine ⟨nofun, fun _ => ?_, by linarith, by linarith⟩
      rw [← mul_div_assoc]
      exact div_pos (mul_self_pos.2 off_ne) samples_pos
    · exact GlideInv.resting _

theorem newVoice_inv (hP : P.wellFormed = true) (hE : ExactNum P.num) (ch : Channel α) (p : BitVec 7) {v : BitVec 7} (hv : v ≠ 0)
    {t : Tone α} (ht : ToneInv t) : VoiceInv P (newVoice P ch p v t) := by
  obtain ⟨depth_nonneg, depth_le⟩ := vibDepth_mem hP 0
  have bound : 0 ≤ vibBound P := depth_nonneg.trans depth_le
  have glide := newGlide_inv hE ch p
  exact
    { tone := ht
      vel := hv
      bend_low := by norm_num [newVoice]
      bend_high := by norm_num [newVoice]
      vib_low := neg_nonpos.2 bound
      vib_high := bound
      porta_off := glide.rest
      porta_sign := glide.sign
      porta_low := glide.low
      porta_high := glide.high
      phase_nonneg := le_rfl
      phase_lt := zero_lt_one
      age := Nat.zero_le _
      latch := rfl
      budget := le_rfl }

/-! ### A channel -/

theorem ChannelInv.reset : ChannelInv P Channel.reset :=
  ⟨Nat.zero_le _, List.forall_mem_nil _, Nat.zero_le _, fun _ => rfl⟩

/-- A channel that changes its voices slot by slot, each to one that meets the invariant, meets the invariant. -/
theorem ChannelInv.of_forall₂ {R : Voice α → Voice α → Prop} (hR : ∀ v v', R v v' → VoiceInv P v → VoiceInv P v')
    {ch ch' : Channel α} (voices : List.Forall₂ R ch.voices ch'.voices) (lastPitch : ch'.lastPitch = ch.lastPitch)
    (peak : ch'.peak = ch.peak) (h : ChannelInv P ch) : ChannelInv P ch' where
  cap := voices.length_eq.symm.trans_le h.cap
  voices := forall_mem_of_forall₂ hR voices h.voices
  peak := peak.trans_le h.peak
  lastPitch e := by
    have none_left : ch.voices = [] := h.lastPitch (lastPitch ▸ e)
    rw [none_left] at voices
    exact List.forall₂_nil_left_iff.1 voices

theorem ChannelInv.noteOff (p : BitVec 7) (vel : Nat) {ch : Channel α} (h : ChannelInv P ch) :
    ChannelInv P (ch.noteOff P p vel) := by
  refine h.of_forall₂ ?_ (releaseFirst_forall₂ p vel ch.voices) rfl rfl
  rintro v v' (rfl | rfl) hv
  · exact hv
  · exact hv.release vel

theorem ChannelInv.pitchBend (hE : ExactNum P.num) (lsb msb : BitVec 7) {ch : Channel α} (h : ChannelInv P ch) :
    ChannelInv P (ch.pitchBend P lsb msb) := by
  obtain ⟨bend_low, bend_high⟩ := bendSemitones_mem hE (bendValue lsb msb) ch.bendRange
  refine h.of_forall₂ ?_ (bendLast_forall₂ _ ch.voices) rfl rfl
  rintro v v' (rfl | rfl) hv
  · exact hv
  · exact { hv with bend_low, bend_high }

theorem ChannelInv.write (idx : BitVec 8) (data : Word) {ch : Channel α} (h : ChannelInv P ch) :
    ChannelInv P (ch.write idx data) := by
  obtain ⟨lastPitch, peak⟩ := write_keeps ch idx data
  refine h.of_forall₂ ?_ (write_forall₂ ch idx data) lastPitch peak
  rintro v v' (rfl | ⟨-, down, rfl⟩) hv
  · exact hv
  · exact hv.pedal down

/-- R250: a new voice enters below the polyphony cap only, and LASTPITCH takes its key. -/
theorem ChannelInv.allocate (hP : P.wellFormed = true) (hE : ExactNum P.num) (hL : LawfulNum P.num) (hpos : PositiveNum P.num)
    (wd : List Descriptor) (p : BitVec 7) {v : BitVec 7} (hv : v ≠ 0) {ch : Channel α} (h : ChannelInv P ch) :
    ChannelInv P (ch.allocate P wd p v) := by
  unfold Channel.allocate
  split
  · exact h
  · next free =>
    split
    · exact h
    · next t ht =>
      have fresh : VoiceInv P (newVoice P ch p v t) := newVoice_inv hP hE ch p hv (newTone_inv hP hE hL hpos wd ch p ht)
      have length : (ch.voices ++ [newVoice P ch p v t]).length ≤ P.maxPoly := by
        rw [List.length_append, List.length_singleton]
        exact not_le.1 free
      exact ⟨length, List.forall_mem_append.2 ⟨h.voices, List.forall_mem_singleton.2 fresh⟩, h.peak, nofun⟩

/-- R282, R283, R290: voices leave and the others move on; the meter is capped. -/
theorem ChannelInv.mix (hP : P.wellFormed = true) (hE : ExactNum P.num) (hpos : PositiveNum P.num) (mem : WaveMem) {ch : Channel α}
    (h : ChannelInv P ch) : ChannelInv P (ch.mix P mem).2 := by
  rw [mix_channel]
  refine ⟨(List.length_filterMap_le _ _).trans h.cap, fun v' hv' => ?_, max_le h.peak (min_le_right _ _), fun e => ?_⟩
  · obtain ⟨v, hv, e⟩ := List.mem_filterMap.1 hv'
    obtain ⟨⟨o, w⟩, adv, rfl⟩ := Option.map_eq_some_iff.1 e
    exact (h.voices v hv).advance hP hE hpos mem ch adv
  · dsimp only
    rw [h.lastPitch e, List.filterMap_nil]

/-! ### The effect units (42_chorus_echo.md, 43_reverb.md) -/

/-- The clauses of the invariant about a chorus unit (R59). -/
structure ChorusInv (P : Params α) (x : Chorus α) : Prop where
  hist : lineWf P.chorusLen x.hist = true
  w : x.w < P.chorusLen
  lfo : x.lfoN < P.chLfoPeriod

/-- The clauses of the invariant about an echo unit (R60). -/
structure EchoInv (P : Params α) (x : Echo α) : Prop where
  histL : lineWf P.echoLen x.histL = true
  histR : lineWf P.echoLen x.histR = true
  w : x.w < P.echoLen
  absent : P.hasEcho = false → x = Echo.reset

/-- R239: the ranges of the reverb's coefficients. -/
structure CoefInv (fb damp : α) : Prop where
  fb_nonneg : 0 ≤ fb
  fb_lt : fb < 1
  damp_nonneg : 0 ≤ damp
  damp_lt : damp < 1

/-- The clauses of the invariant about a reverb unit (R61, R239). -/
structure ReverbInv (P : Params α) (v : Reverb α) : Prop where
  coefs : CoefInv v.fb v.damp
  pre : lineWf P.revPredelay v.pre = true
  pw : v.pw < max 1 P.revPredelay
  combL : combsOk P.combLen v.combL
  combR : combsOk P.combLenR v.combR
  apL : allPassesOk P.apLen v.apL
  apR : allPassesOk P.apLenR v.apR

/-- The invariant of an owner's units is that of each unit. -/
theorem fxInv_iff (x : FxUnits α) : FxInv P x ↔ ChorusInv P x.chorus ∧ EchoInv P x.echo ∧ ReverbInv P x.reverb := by
  constructor
  · intro h
    exact ⟨⟨h.chorus_hist, h.chorus_w, h.chorus_lfo⟩, ⟨h.echo_histL, h.echo_histR, h.echo_w, h.echo_absent⟩,
      ⟨h.fb_nonneg, h.fb_lt, h.damp_nonneg, h.damp_lt⟩, h.pre, h.pw, h.combL, h.combR, h.apL, h.apR⟩
  · rintro ⟨⟨hist, w, lfo⟩, ⟨histL, histR, ew, absent⟩, ⟨fb0, fb1, damp0, damp1⟩, pre, pw, combL, combR, apL, apR⟩
    exact ⟨hist, w, lfo, histL, histR, ew, absent, fb0, fb1, damp0, damp1, pre, pw, combL, combR, apL, apR⟩

theorem combsOk_cleared {lens : List Nat} (h : ∀ l ∈ lens, 0 < l) :
    combsOk lens (List.replicate lens.length (Comb.cleared : Comb α)) := by
  induction lens with
  | nil => trivial
  | cons len lens ih =>
    obtain ⟨pos, rest⟩ := List.forall_mem_cons.1 h
    exact ⟨rfl, pos, ih rest⟩

theorem allPassesOk_cleared {lens : List Nat} (h : ∀ l ∈ lens, 0 < l) :
    allPassesOk lens (List.replicate lens.length (AllPass.cleared : AllPass α)) := by
  induction lens with
  | nil => trivial
  | cons len lens ih =>
    obtain ⟨pos, rest⟩ := List.forall_mem_cons.1 h
    exact ⟨rfl, pos, ih rest⟩

/-- A position in a ring buffer moves on within the buffer. -/
theorem ring_succ_lt {i len : Nat} (h : i < len) : (i + 1) % len < len := Nat.mod_lt _ (Nat.zero_lt_of_lt h)

/-- R231, R236: the combs of a bank stay within their lengths. -/
theorem combBank_ok (N : Num α) (x fb damp : α) {lens : List Nat} {cs : List (Comb α)} (acc : α) (h : combsOk lens cs) :
    combsOk lens (combBank N x fb damp lens cs acc).2 := by
  induction lens generalizing cs acc with
  | nil => exact h
  | cons len lens ih =>
    cases cs with
    | nil => exact h
    | cons c cs =>
      obtain ⟨wf, i, rest⟩ := h
      exact ⟨lineWrite_wf _ _ _ _ i wf, ring_succ_lt i, ih _ rest⟩

/-- R231, R237: the all-passes of a bank stay within their lengths. -/
theorem allPassChain_ok {lens : List Nat} {as : List (AllPass α)} (x : α) (h : allPassesOk lens as) :
    allPassesOk lens (allPassChain P lens as x).2 := by
  induction lens generalizing as x with
  | nil => exact h
  | cons len lens ih =>
    cases as with
    | nil => exact h
    | cons a as =>
      obtain ⟨wf, i, rest⟩ := h
      exact ⟨lineWrite_wf _ _ _ _ i wf, ring_succ_lt i, ih _ rest⟩

theorem ChorusInv.clear (hP : P.wellFormed = true) (x : Chorus α) : ChorusInv P x.clear :=
  ⟨rfl, chorusLen_pos hP, chLfoPeriod_pos hP⟩

theorem EchoInv.clear (hP : P.wellFormed = true) {x : Echo α} (absent : P.hasEcho = false → x.clear = Echo.reset) :
    EchoInv P x.clear :=
  ⟨rfl, rfl, echoLen_pos hP, absent⟩

theorem ReverbInv.clear (hP : P.wellFormed = true) {v : Reverb α} (coefs : CoefInv v.fb v.damp) : ReverbInv P v.clear := by
  obtain ⟨⟨combs, comb_pos⟩, aps, ap_pos⟩ := reverb_lengths hP
  have spread {lens : List Nat} (h : ∀ l ∈ lens, 0 < l) : ∀ l ∈ lens.map (· + P.stereoSpread), 0 < l :=
    List.forall_mem_map.2 fun l hl => Nat.add_pos_left (h l hl) _
  have combL := combsOk_cleared (α := α) comb_pos
  have combR := combsOk_cleared (α := α) (spread comb_pos)
  have apL := allPassesOk_cleared (α := α) ap_pos
  have apR := allPassesOk_cleared (α := α) (spread ap_pos)
  rw [List.length_map, combs] at combR
  rw [List.length_map, aps] at apR
  rw [combs] at combL
  rw [aps] at apL
  exact ⟨coefs, rfl, Nat.lt_of_lt_of_le Nat.zero_lt_one (le_max_left _ _), combL, combR, apL, apR⟩

theorem CoefInv.zero : CoefInv (0 : α) 0 := ⟨le_rfl, zero_lt_one, le_rfl, zero_lt_one⟩

theorem FxInv.reset (hP : P.wellFormed = true) : FxInv P FxUnits.reset :=
  (fxInv_iff _).2 ⟨ChorusInv.clear hP Chorus.reset, EchoInv.clear hP (x := Echo.reset) fun _ => rfl,
    ReverbInv.clear hP (v := Reverb.reset) CoefInv.zero⟩

/-- R312: clearing keeps the coefficients, and an absent echo at its reset value. -/
theorem FxInv.clear (hP : P.wellFormed = true) {x : FxUnits α} (h : FxInv P x) : FxInv P x.clear := by
  obtain ⟨-, echo, reverb⟩ := (fxInv_iff x).1 h
  refine (fxInv_iff _).2 ⟨ChorusInv.clear hP _, EchoInv.clear hP fun absent => ?_, ReverbInv.clear hP reverb.coefs⟩
  rw [echo.absent absent]
  rfl

/-- R202, R239: the coefficients of a depth above 0 are stable; a depth of 0 keeps the old ones. -/
theorem ReverbInv.coefficients (hP : P.wellFormed = true) {v : Reverb α} (h : ReverbInv P v) : ReverbInv P (v.coefficients P) := by
  unfold Reverb.coefficients
  split
  · exact h
  · next depth =>
    obtain ⟨fb0, fb1, damp0, damp1⟩ := reverb_coefficients_mem hP depth
    exact { h with coefs := ⟨fb0, fb1, damp0, damp1⟩ }

/-- R202: FXSTART on a unit that exists. -/
theorem FxInv.start (hP : P.wellFormed = true) {u : Nat} (present : u = 1 → P.hasEcho = true) (depth : BitVec 7) {x : FxUnits α}
    (h : FxInv P x) : FxInv P (x.start P u depth) := by
  obtain ⟨chorus, echo, reverb⟩ := (fxInv_iff x).1 h
  unfold FxUnits.start
  split
  · exact (fxInv_iff _).2 ⟨ChorusInv.clear hP _, echo, reverb⟩
  · have started := EchoInv.clear hP (x := { x.echo with depth := depth }) fun absent =>
      Bool.noConfusion (absent.symm.trans (present rfl))
    exact (fxInv_iff _).2 ⟨chorus, started, reverb⟩
  · have cleared := ReverbInv.clear hP (v := { x.reverb with depth := depth }) reverb.coefs
    exact (fxInv_iff _).2 ⟨chorus, echo, cleared.coefficients hP⟩
  · exact h

theorem ChorusInv.addChorus (dry s : Stereo α) {x : Chorus α} (h : ChorusInv P x) : ChorusInv P (addChorus P dry x s).2 := by
  have fed : ChorusInv P (x.wet P s).2 := ⟨lineWrite_wf _ _ _ _ h.w h.hist, ring_succ_lt h.w, ring_succ_lt h.lfo⟩
  unfold Machine.addChorus Chorus.process
  split_ifs
  · exact h
  · exact fed
  · exact h

/-- R287: an absent echo is not stepped. -/
theorem EchoInv.addEcho (dry s : Stereo α) {x : Echo α} (h : EchoInv P x) : EchoInv P (addEcho P dry x s).2 := by
  unfold Machine.addEcho Echo.process
  split_ifs with enabled
  · exact h
  · have present : P.hasEcho = true := ((Bool.and_eq_true _ _).mp enabled).1
    exact ⟨lineWrite_wf _ _ _ _ h.w h.histL, lineWrite_wf _ _ _ _ h.w h.histR, ring_succ_lt h.w,
      fun absent => Bool.noConfusion (absent.symm.trans present)⟩
  · exact h

/-- R233: the pre-delay stays within its length. -/
theorem ReverbInv.predelay (x0 : α) {v : Reverb α} (h : ReverbInv P v) : ReverbInv P (v.predelay P x0).2 := by
  unfold Reverb.predelay
  split
  · exact h
  · next len =>
    have pw : v.pw < P.revPredelay := by
      have := h.pw
      omega
    exact { h with pre := lineWrite_wf _ _ _ _ pw h.pre, pw := (ring_succ_lt pw).trans_le (le_max_right _ _) }

theorem ReverbInv.wet (s : Stereo α) {v : Reverb α} (h : ReverbInv P v) : ReverbInv P (v.wet P s).2 := by
  have delayed := h.predelay (P.num.mul (P.num.add s.l s.r) P.revGain)
  exact { delayed with
    combL := combBank_ok _ _ _ _ _ delayed.combL
    combR := combBank_ok _ _ _ _ _ delayed.combR
    apL := allPassChain_ok _ delayed.apL
    apR := allPassChain_ok _ delayed.apR }

theorem ReverbInv.addReverb (dry s : Stereo α) {v : Reverb α} (h : ReverbInv P v) : ReverbInv P (addReverb P dry v s).2 := by
  unfold Machine.addReverb Reverb.process
  split_ifs
  · exact h
  · exact h.wet s
  · exact h

theorem FxInv.run (b : Buses α) (dry : Stereo α) {x : FxUnits α} (h : FxInv P x) : FxInv P (x.run P b dry).2 := by
  obtain ⟨chorus, echo, reverb⟩ := (fxInv_iff x).1 h
  exact (fxInv_iff _).2 ⟨chorus.addChorus _ _, echo.addEcho _ _, reverb.addReverb _ _⟩

/-! ### The whole state -/

/-- R289: an emitted sample is a 16-bit value. -/
theorem toPcm_mem (y : α) : -32768 ≤ toPcm y ∧ toPcm y ≤ 32767 := by
  obtain ⟨low, high⟩ := clamp_mem y (-32768) 32767 (by norm_num)
  unfold toPcm trunc
  split
  · exact ⟨Int.le_ceil_iff.2 (by push_cast; linarith), Int.ceil_le.2 (by push_cast; linarith)⟩
  · exact ⟨Int.le_floor.2 (by push_cast; linarith), Int.floor_le_iff.2 (by push_cast; linarith)⟩

theorem StateInv.resetOf (hP : P.wellFormed = true) : StateInv P (State.resetOf P) where
  nchan := List.length_replicate
  channels _ h := List.eq_of_mem_replicate h ▸ ChannelInv.reset
  ndesc := List.length_replicate
  wmem := reset_wmem_wf P
  owners := List.length_replicate
  fx _ h := List.eq_of_mem_replicate h ▸ FxInv.reset hP
  peakL := Nat.zero_le _
  peakR := Nat.zero_le _
  frames := rfl

theorem forall_mem_set {β : Type} {Q : β → Prop} {xs : List β} (h : ∀ x ∈ xs, Q x) (i : Nat) {y : β} (hy : Q y) :
    ∀ x ∈ xs.set i y, Q x := fun x hx => (List.mem_or_eq_of_mem_set hx).elim (h x) fun e => e ▸ hy

/-- A command on one channel keeps the invariant where what it does to a channel does. -/
theorem StateInv.onChannel (c : Nat) {f : Channel α → Channel α} (hf : ∀ ch, ChannelInv P ch → ChannelInv P (f ch)) {s : State α}
    (h : StateInv P s) : StateInv P (s.onChannel c f) := by
  rcases onChannel_cases s c f with ⟨ch, hc, e⟩ | ⟨-, e⟩ <;> rw [e]
  · exact { h with
      nchan := by simpa using h.nchan
      channels := forall_mem_set h.channels c (hf ch (h.channels ch (List.mem_of_getElem? hc))) }
  · exact h

/-- The index check of a channel command in front of it (30_encoding.md R112). -/
theorem StateInv.guarded_onChannel (g : Prop) [Decidable g] (c : Nat) {f : Channel α → Channel α}
    (hf : ∀ ch, ChannelInv P ch → ChannelInv P (f ch)) {s : State α} (h : StateInv P s) :
    StateInv P (if g then s.onChannel c f else s) := by
  split
  · exact h.onChannel c hf
  · exact h

/-- A command on one owner's units keeps the invariant where what it does to the units does. -/
theorem StateInv.onOwner (o : Nat) {f : FxUnits α → FxUnits α} (hf : ∀ x, FxInv P x → FxInv P (f x)) {s : State α}
    (h : StateInv P s) : StateInv P (s.onOwner o f) := by
  rcases onOwner_cases s o f with ⟨x, hx, e⟩ | ⟨-, e⟩ <;> rw [e]
  · exact { h with
      owners := by simpa using h.owners
      fx := forall_mem_set h.fx o (hf x (h.fx x (List.mem_of_getElem? hx))) }
  · exact h

theorem StateInv.onDescriptor (d : Nat) (f : Descriptor → Descriptor) {s : State α} (h : StateInv P s) :
    StateInv P (s.onDescriptor d f) := by
  rcases onDescriptor_cases s d f with ⟨x, -, e⟩ | ⟨-, e⟩ <;> rw [e]
  · exact { h with ndesc := by simpa using h.ndesc }
  · exact h

theorem StateInv.noteOffOp (c : BitVec 8) (p v : BitVec 7) {s : State α} (h : StateInv P s) : StateInv P (noteOffOp P c p v s) :=
  h.guarded_onChannel _ _ fun _ hch => hch.noteOff p v.toNat

theorem StateInv.noteOnOp (hP : P.wellFormed = true) (hE : ExactNum P.num) (hL : LawfulNum P.num) (hpos : PositiveNum P.num)
    (c : BitVec 8) (p v : BitVec 7) {s : State α} (h : StateInv P s) : StateInv P (noteOnOp P c p v s) := by
  unfold Machine.noteOnOp
  split_ifs with _ hv
  · exact h.noteOffOp c p 0
  · exact h.onChannel _ fun _ hch => hch.allocate hP hE hL hpos s.wd p hv
  · exact h

theorem StateInv.pitchBendOp (hE : ExactNum P.num) (c : BitVec 8) (lsb msb : BitVec 7) {s : State α} (h : StateInv P s) :
    StateInv P (pitchBendOp P c lsb msb s) :=
  h.guarded_onChannel _ _ fun _ hch => hch.pitchBend hE lsb msb

theorem StateInv.writeChannelOp (c idx : BitVec 8) (data : Word) {s : State α} (h : StateInv P s) :
    StateInv P (writeChannelOp P c idx data s) :=
  h.guarded_onChannel _ _ fun _ hch => hch.write idx data

theorem StateInv.writeGlobalOp (idx : BitVec 8) (data : Word) {s : State α} (h : StateInv P s) :
    StateInv P (writeGlobalOp idx data s) := by
  unfold Machine.writeGlobalOp
  split
  · exact { h with }
  · exact h

theorem StateInv.fxStartOp (hP : P.wellFormed = true) (owner u : BitVec 8) (depth : BitVec 7) {s : State α} (h : StateInv P s) :
    StateInv P (fxStartOp P owner u depth s) := by
  unfold Machine.fxStartOp
  split_ifs with _ echo _
  · exact h
  · exact h
  · exact h
  · have present (e : u.toNat = 1) : P.hasEcho = true := by simpa [e] using echo
    exact h.onOwner _ fun _ hx => hx.start hP present depth

theorem StateInv.writeDescriptorOp (d field : BitVec 8) (data : Word) {s : State α} (h : StateInv P s) :
    StateInv P (writeDescriptorOp P d field data s) := by
  unfold Machine.writeDescriptorOp
  split
  · exact h.onDescriptor _ _
  · exact h

theorem StateInv.waveDataOp (left right : BitVec 16) {s : State α} (h : StateInv P s) : StateInv P (waveDataOp P left right s) :=
  { h with wmem := waveWrite_wf P _ _ _ h.wmem }

theorem StateInv.clearMetersOp {s : State α} (h : StateInv P s) : StateInv P (clearMetersOp s) :=
  { h with
    nchan := by simpa using h.nchan
    channels := List.forall_mem_map.2 fun ch hch => { h.channels ch hch with peak := Nat.zero_le _ }
    peakL := Nat.zero_le _
    peakR := Nat.zero_le _ }

theorem StateInv.rewindOp (hP : P.wellFormed = true) {s : State α} (h : StateInv P s) : StateInv P (rewindOp s) :=
  { h with
    nchan := by simpa using h.nchan
    channels := List.forall_mem_map.2 fun _ _ => ChannelInv.reset
    owners := by simpa using h.owners
    fx := List.forall_mem_map.2 fun x hx => (h.fx x hx).clear hP
    peakL := Nat.zero_le _
    peakR := Nat.zero_le _ }

/-- R280: channels and effect units keep their invariants, the output meters take 16-bit values, the stream grows by a frame. -/
theorem StateInv.frameOp (hP : P.wellFormed = true) (hE : ExactNum P.num) (hpos : PositiveNum P.num) {s : State α}
    (h : StateInv P s) : StateInv P (frameOp P s) := by
  have channels : (Machine.frameOp P s).channels = s.channels.map fun ch => (ch.mix P s.wmem).2 := mixBlock_channels P s
  have fx := mixBlock_fx_forall₂ (P := P) s
  have sample (y : α) : (toPcm y).natAbs ≤ 32768 := by
    have := toPcm_mem y
    omega
  exact
    { nchan := by rw [channels, List.length_map, h.nchan]
      channels := channels ▸ List.forall_mem_map.2 fun ch hch => (h.channels ch hch).mix hP hE hpos s.wmem
      ndesc := h.ndesc
      wmem := h.wmem
      owners := fx.length_eq.symm.trans h.owners
      fx := by
        refine forall_mem_of_forall₂ ?_ fx h.fx
        rintro x x' (rfl | ⟨b, dry, rfl⟩) hx
        · exact hx
        · exact hx.run b dry
      peakL := max_le h.peakL (sample _)
      peakR := max_le h.peakR (sample _)
      frames := by
        have length : (Machine.frameOp P s).out.length = s.out.length + 4 := emit_length _ _ _
        rw [length, Nat.add_mod_right, h.frames] }

/-- Every command keeps the invariant, in every well-formed build with exact arithmetic. -/
theorem StateInv.commandOp (hP : P.wellFormed = true) (hE : ExactNum P.num) (hL : LawfulNum P.num) (hpos : PositiveNum P.num)
    (i : Instr) {s : State α} (h : StateInv P s) : StateInv P (commandOp P i s) := by
  cases i with
  | nop => exact h
  | frame => exact h.frameOp hP hE hpos
  | rewind => exact h.rewindOp hP
  | mclr => exact h.clearMetersOp
  | noteon c p v => exact h.noteOnOp hP hE hL hpos c p v
  | noteoff c p v => exact h.noteOffOp c p v
  | pbend c lsb msb => exact h.pitchBendOp hE c lsb msb
  | wrch c idx data => exact h.writeChannelOp c idx data
  | wrg idx data => exact h.writeGlobalOp idx data
  | fxstart owner u depth => exact h.fxStartOp hP owner u depth
  | wavptr addr => exact { h with }
  | wavdat left right => exact h.waveDataOp left right
  | wdesc d field data => exact h.writeDescriptorOp d field data

end

/-! ### The obligations -/

/-- The commands still to come are in no clause of the invariant (log 4). -/
theorem StateInv.withStream {P : Params Rat} (rest : List Byte) {s : State} (h : StateInv P s) : StateInv P (s.withStream rest) :=
  { h with }

/-- Settles O10: every part of the reset state meets its invariant. -/
theorem resetMeetsTheInvariant : Obligations.ResetMeetsTheInvariant := by
  unfold Obligations.ResetMeetsTheInvariant
  refine ⟨?_, StateInv.resetOf params_inRange.checked⟩
  intro α _ _ _ _ P hP
  exact StateInv.resetOf hP

/-- Settles O12, command by command. -/
theorem commandsKeepTheInvariantOfAnyBuild : Obligations.CommandsKeepTheInvariantOfAnyBuild := by
  unfold Obligations.CommandsKeepTheInvariantOfAnyBuild
  intro α _ _ _ _ P i s hP hE hL hpos h
  exact h.commandOp hP hE hL hpos i

/-- Settles O11: a step is a command of the default build, or it takes bytes off the stream, or it waits. -/
theorem stepKeepsTheInvariant : Obligations.StepKeepsTheInvariant := by
  unfold Obligations.StepKeepsTheInvariant State.Inv
  intro s t h ht
  rcases step_cases s with ⟨i, rest, -, e⟩ | ⟨r, rest, -, e⟩ | ⟨-, e⟩ <;> rw [e] at ht
  · rw [exec_eq_next_commandOp] at ht
    cases ht
    exact (h.withStream rest).commandOp params_inRange.checked exactNum_exact Numeric.exactNum_lawful Numeric.exactNum_positive i
  · cases ht
    exact h.withStream rest
  · cases ht
    exact h

end Machine
end Sys2Proof
end

section
/-! O5, O13, O14: what a step runs, and which commands write which state (10_state.md R20, R40, R44, R50 to R61, 20_memory.md R70, R76). Each
command's effect is one equation on the state, or a relation between a channel before it and after it; the writers are read off. -/

namespace Sys2Proof.Machine

set_option linter.unusedSectionVars false

variable {α : Type} [Field α] [LinearOrder α] [FloorRing α] {P : Params α}

/-- Settles O5, by what a step can do. -/
theorem stepRunsTheDecodedCommand : Obligations.StepRunsTheDecodedCommand := by
  unfold Obligations.StepRunsTheDecodedCommand
  constructor
  · intro s i rest h
    rcases step_cases s with ⟨j, tail, front, e⟩ | ⟨r, tail, front, -⟩ | ⟨front, -⟩ <;> rw [h] at front <;> cases front
    exact e
  · intro s h
    rcases step_cases s with ⟨j, tail, front, -⟩ | ⟨r, tail, front, -⟩ | ⟨-, e⟩
    · rw [decodeBytes_eq_none h] at front
      cases front
    · rw [decodeBytes_eq_none h] at front
      cases front
    · exact e

/-- Settles O13: the equation of each command shows what it writes. -/
theorem globalStateHasItsWriters : Obligations.GlobalStateHasItsWriters := by
  unfold Obligations.GlobalStateHasItsWriters
  intro i s t ht
  rw [exec_eq_next_commandOp] at ht
  cases ht
  cases i with
  | nop => simp [commandOp]
  | frame => simp [commandOp, mixBlock_fx_config]
  | rewind => simpa [commandOp] using rewindOp_fx_config s
  | mclr => simp [commandOp]
  | noteon c p v =>
    obtain ⟨chs, e⟩ := noteOnOp_writes (P := Config.params) c p v s
    simp [commandOp, e]
  | noteoff c p v =>
    obtain ⟨chs, e⟩ := noteOffOp_writes (P := Config.params) c p v s
    simp [commandOp, e]
  | pbend c lsb msb =>
    obtain ⟨chs, e⟩ := pitchBendOp_writes (P := Config.params) c lsb msb s
    simp [commandOp, e]
  | wrch c idx data =>
    obtain ⟨chs, e⟩ := writeChannelOp_writes (P := Config.params) c idx data s
    simp [commandOp, e]
  | wrg idx data =>
    have master : idx = 0 ∨ (writeGlobalOp idx data s).master = s.master := by
      unfold writeGlobalOp
      split
      · exact .inl ‹_›
      · exact .inr rfl
    simpa [commandOp] using master
  | fxstart owner u depth =>
    obtain ⟨fx, e⟩ := fxStartOp_writes (P := Config.params) owner u depth s
    simp [commandOp, e]
  | wavptr addr => simp [commandOp]
  | wavdat left right => simp [commandOp]
  | wdesc d field data =>
    obtain ⟨wd, e⟩ := writeDescriptorOp_writes (P := Config.params) d field data s
    simp [commandOp, e]

/-! ### What a command may write of a channel (10_state.md R22, R23, R40, R44) -/

/-- What command `i` may write of a live voice of channel `c` that stays in its slot (R23). -/
structure VoiceWrites (i : Instr) (c : Nat) (v v' : Voice α) : Prop where
  others : v' = { v with
    bend := v'.bend, rel := v'.rel, relTotal := v'.relTotal, relLeft := v'.relLeft, relOnce := v'.relOnce, sus := v'.sus }
  bend : (∃ a lsb msb, i = .pbend a lsb msb ∧ a.toNat = c) ∨ v'.bend = v.bend
  release : ReleasesOn i c ∨ v'.rel = v.rel ∧ v'.relTotal = v.relTotal ∧ v'.relLeft = v.relLeft ∧ v'.relOnce = v.relOnce
  pedal : (∃ a data, i = .wrch a 0x06 data ∧ a.toNat = c) ∨ v'.sus = v.sus

/-- What command `i` may write of channel `c` (R22, R40, R44). -/
structure ChannelWrites (i : Instr) (c : Nat) (ch ch' : Channel α) : Prop where
  registers : (i = .rewind ∨ ∃ a idx data, i = .wrch a idx data ∧ a.toNat = c) ∨ ch'.registers = ch.registers
  lastPitch : (i = .rewind ∨ ∃ a p v, i = .noteon a p v ∧ a.toNat = c) ∨ ch'.lastPitch = ch.lastPitch
  peak : (i = .frame ∨ i = .rewind ∨ i = .mclr) ∨ ch'.peak = ch.peak
  nv : (i = .frame ∨ i = .rewind) ∧ ch'.nv ≤ ch.nv
    ∨ ch'.nv = ch.nv ∨ ch'.nv = ch.nv + 1 ∧ ∃ a p v, i = .noteon a p v ∧ a.toNat = c ∧ v ≠ 0
  voices : (i = .frame ∨ i = .rewind) ∨
    ∀ (k : Nat) (v : Voice α), ch.voices[k]? = some v → ∃ v', ch'.voices[k]? = some v' ∧ VoiceWrites i c v v'

/-- Channel `c`, which was `ch`, is in state `t` what command `i` may make of it. -/
def WritesChannel (i : Instr) (c : Nat) (ch : Channel α) (t : State α) : Prop :=
  ∃ ch', t.channels[c]? = some ch' ∧ ChannelWrites i c ch ch'

variable {i : Instr} {c : Nat}

theorem VoiceWrites.refl (v : Voice α) : VoiceWrites i c v v := ⟨rfl, .inr rfl, .inr ⟨rfl, rfl, rfl, rfl⟩, .inr rfl⟩

theorem voiceWrites_release (hi : ReleasesOn i c) (v : Voice α) (vel : Nat) : VoiceWrites i c v (v.release P vel) :=
  ⟨rfl, .inr rfl, .inl hi, .inr rfl⟩

theorem voiceWrites_pedal (hi : ∃ a data, i = .wrch a 0x06 data ∧ a.toNat = c) (v : Voice α) (down : Bool) :
    VoiceWrites i c v (v.pedal down) := by
  have written (b : Bool) : VoiceWrites i c v { v with sus := b } := ⟨rfl, .inr rfl, .inr ⟨rfl, rfl, rfl, rfl⟩, .inl hi⟩
  unfold Voice.pedal
  split
  · split
    · exact .refl v
    · exact written true
  · exact written false

/-- A command that changes the voices slot by slot keeps their number. -/
theorem ChannelWrites.of_forall₂ {ch ch' : Channel α} (voices : List.Forall₂ (VoiceWrites i c) ch.voices ch'.voices)
    (registers : (i = .rewind ∨ ∃ a idx data, i = .wrch a idx data ∧ a.toNat = c) ∨ ch'.registers = ch.registers)
    (lastPitch : ch'.lastPitch = ch.lastPitch) (peak : (i = .frame ∨ i = .rewind ∨ i = .mclr) ∨ ch'.peak = ch.peak) :
    ChannelWrites i c ch ch' where
  registers := registers
  lastPitch := .inr lastPitch
  peak := peak
  nv := .inr (.inl voices.length_eq.symm)
  voices := .inr fun _ _ hv => exists_getElem?_of_forall₂ voices hv

theorem ChannelWrites.refl (ch : Channel α) : ChannelWrites i c ch ch :=
  .of_forall₂ (List.forall₂_same.2 fun v _ => .refl v) (.inr rfl) rfl (.inr rfl)

/-- A channel's registers are neither its voices nor its bookkeeping (R40, R44). -/
theorem registers_of_bookkeeping (ch : Channel α) (vs : List (Voice α)) (last : Option (BitVec 7)) (peak : Nat) :
    ({ ch with voices := vs, lastPitch := last, peak := peak } : Channel α).registers = ch.registers := rfl

theorem channelWrites_noteOff (hi : ReleasesOn i c) (p : BitVec 7) (vel : Nat) (ch : Channel α) :
    ChannelWrites i c ch (ch.noteOff P p vel) := by
  refine .of_forall₂ ((releaseFirst_forall₂ p vel ch.voices).imp ?_) (.inr (registers_of_bookkeeping ..)) rfl (.inr rfl)
  rintro v v' (rfl | rfl)
  · exact .refl v'
  · exact voiceWrites_release hi v vel

theorem channelWrites_pitchBend (hi : ∃ a lsb msb, i = .pbend a lsb msb ∧ a.toNat = c) (lsb msb : BitVec 7) (ch : Channel α) :
    ChannelWrites i c ch (ch.pitchBend P lsb msb) := by
  refine .of_forall₂ ((bendLast_forall₂ _ ch.voices).imp ?_) (.inr (registers_of_bookkeeping ..)) rfl (.inr rfl)
  rintro v v' (rfl | rfl)
  · exact .refl v'
  · exact ⟨rfl, .inl hi, .inr ⟨rfl, rfl, rfl, rfl⟩, .inr rfl⟩

theorem channelWrites_write {a idx : BitVec 8} (data : Word) (ha : a.toNat = c) (ch : Channel α) :
    ChannelWrites (.wrch a idx data) c ch (ch.write idx data) := by
  obtain ⟨lastPitch, peak⟩ := write_keeps ch idx data
  refine .of_forall₂ ((write_forall₂ ch idx data).imp ?_) (.inl (.inr ⟨a, idx, data, rfl, ha⟩)) lastPitch (.inr peak)
  rintro v v' (rfl | ⟨rfl, down, rfl⟩)
  · exact .refl v'
  · exact voiceWrites_pedal ⟨a, data, rfl, ha⟩ v down

/-- R250: the new voice comes after the live ones, which stay as they are. -/
theorem channelWrites_allocate (wd : List Descriptor) {a : BitVec 8} {p v : BitVec 7} (ha : a.toNat = c) (hv : v ≠ 0) (ch : Channel α) :
    ChannelWrites (.noteon a p v) c ch (ch.allocate P wd p v) := by
  unfold Channel.allocate
  split
  · exact .refl ch
  · split
    · exact .refl ch
    · exact
        { registers := .inr (registers_of_bookkeeping ..)
          lastPitch := .inl (.inr ⟨a, p, v, rfl, ha⟩)
          peak := .inr rfl
          nv := .inr (.inr ⟨List.length_append, a, p, v, rfl, ha, hv⟩)
          voices := .inr fun k u hu => ⟨u, (List.getElem?_append_left (List.getElem?_eq_some_iff.1 hu).1).trans hu, .refl u⟩ }

theorem channelWrites_mix (mem : WaveMem) (ch : Channel α) : ChannelWrites .frame c ch (ch.mix P mem).2 := by
  rw [mix_channel]
  exact
    { registers := .inr (registers_of_bookkeeping ..)
      lastPitch := .inr rfl
      peak := .inl (.inl rfl)
      nv := .inl ⟨.inl rfl, List.length_filterMap_le _ _⟩
      voices := .inl (.inl rfl) }

theorem channelWrites_reset (ch : Channel α) : ChannelWrites .rewind c ch Channel.reset where
  registers := .inl (.inl rfl)
  lastPitch := .inl (.inl rfl)
  peak := .inl (.inr (.inl rfl))
  nv := .inl ⟨.inr rfl, Nat.zero_le _⟩
  voices := .inl (.inr rfl)

theorem channelWrites_clearPeak (ch : Channel α) : ChannelWrites .mclr c ch { ch with peak := 0 } :=
  .of_forall₂ (List.forall₂_same.2 fun v _ => .refl v) (.inr (registers_of_bookkeeping ..)) rfl (.inl (.inr (.inr rfl)))

section
variable {s : State α} {ch : Channel α} (hch : s.channels[c]? = some ch)
include hch

theorem writesChannel_of_channels_eq {t : State α} (e : t.channels = s.channels) : WritesChannel i c ch t :=
  ⟨ch, e ▸ hch, .refl ch⟩

theorem writesChannel_of_map {t : State α} {f : Channel α → Channel α} (e : t.channels = s.channels.map f)
    (hf : ChannelWrites i c ch (f ch)) : WritesChannel i c ch t :=
  ⟨f ch, by rw [e, List.getElem?_map, hch]; rfl, hf⟩

/-- A command on channel `a` writes channel `c` only where `a` is `c`. -/
theorem writesChannel_onChannel {a : Nat} {f : Channel α → Channel α} (hf : a = c → ChannelWrites i c ch (f ch)) :
    WritesChannel i c ch (s.onChannel a f) := by
  unfold WritesChannel
  rw [onChannel_channels]
  split
  · next e =>
    subst e
    exact ⟨f ch, by rw [hch]; rfl, hf rfl⟩
  · exact ⟨ch, hch, .refl ch⟩

/-- The index check of a channel command in front of it (30_encoding.md R112). -/
theorem writesChannel_guarded_onChannel (g : Prop) [Decidable g] {a : Nat} {f : Channel α → Channel α}
    (hf : a = c → ChannelWrites i c ch (f ch)) : WritesChannel i c ch (if g then s.onChannel a f else s) := by
  split
  · exact writesChannel_onChannel hch hf
  · exact writesChannel_of_channels_eq hch rfl

theorem writesChannel_noteOffOp {a : BitVec 8} (hi : a.toNat = c → ReleasesOn i c) (p v : BitVec 7) :
    WritesChannel i c ch (noteOffOp P a p v s) :=
  writesChannel_guarded_onChannel hch _ fun ha => channelWrites_noteOff (hi ha) p _ ch

theorem writesChannel_noteOnOp (a : BitVec 8) (p v : BitVec 7) : WritesChannel (.noteon a p v) c ch (noteOnOp P a p v s) := by
  unfold noteOnOp
  split_ifs with _ hv
  · subst hv
    exact writesChannel_noteOffOp hch (fun ha => .inr ⟨a, p, rfl, ha⟩) p 0
  · exact writesChannel_onChannel hch fun ha => channelWrites_allocate s.wd ha hv ch
  · exact writesChannel_of_channels_eq hch rfl

theorem writesChannel_pitchBendOp (a : BitVec 8) (lsb msb : BitVec 7) :
    WritesChannel (.pbend a lsb msb) c ch (pitchBendOp P a lsb msb s) :=
  writesChannel_guarded_onChannel hch _ fun ha => channelWrites_pitchBend ⟨a, lsb, msb, rfl, ha⟩ lsb msb ch

theorem writesChannel_writeChannelOp (a idx : BitVec 8) (data : Word) :
    WritesChannel (.wrch a idx data) c ch (writeChannelOp P a idx data s) :=
  writesChannel_guarded_onChannel hch _ fun ha => channelWrites_write data ha ch

/-- Every command writes of a channel only what its rule names. -/
theorem writesChannel_commandOp (i : Instr) : WritesChannel i c ch (commandOp P i s) := by
  cases i with
  | nop => exact writesChannel_of_channels_eq hch rfl
  | frame => exact writesChannel_of_map hch (mixBlock_channels P s) (channelWrites_mix s.wmem ch)
  | rewind => exact writesChannel_of_map hch (rewindOp_channels s) (channelWrites_reset ch)
  | mclr => exact writesChannel_of_map hch (clearMetersOp_channels s) (channelWrites_clearPeak ch)
  | noteon a p v => exact writesChannel_noteOnOp hch a p v
  | noteoff a p v => exact writesChannel_noteOffOp hch (fun ha => .inl ⟨a, p, v, rfl, ha⟩) p v
  | pbend a lsb msb => exact writesChannel_pitchBendOp hch a lsb msb
  | wrch a idx data => exact writesChannel_writeChannelOp hch a idx data
  | wrg idx data => exact writesChannel_of_channels_eq hch (writeGlobalOp_channels idx data s)
  | fxstart owner u depth =>
    obtain ⟨fx, e⟩ := fxStartOp_writes (P := P) owner u depth s
    have kept : (fxStartOp P owner u depth s).channels = s.channels := by rw [e]
    exact writesChannel_of_channels_eq hch kept
  | wavptr addr => exact writesChannel_of_channels_eq hch rfl
  | wavdat left right => exact writesChannel_of_channels_eq hch rfl
  | wdesc d field data =>
    obtain ⟨wd, e⟩ := writeDescriptorOp_writes (P := P) d field data s
    have kept : (writeDescriptorOp P d field data s).channels = s.channels := by rw [e]
    exact writesChannel_of_channels_eq hch kept

end

/-- Settles O14, by what each command may write of a channel. -/
theorem channelStateHasItsWriters : Obligations.ChannelStateHasItsWriters := by
  unfold Obligations.ChannelStateHasItsWriters
  intro i s t c ch ht hch
  rw [exec_eq_next_commandOp] at ht
  cases ht
  obtain ⟨ch', hch', w⟩ := writesChannel_commandOp (P := Config.params) hch i
  refine ⟨ch', hch', w.registers, w.lastPitch, w.peak, w.nv, w.voices.imp_right fun kept k v hv => ?_⟩
  obtain ⟨v', hv', vw⟩ := kept k v hv
  exact ⟨v', hv', vw.others, vw.bend, vw.release, vw.pedal⟩

end Sys2Proof.Machine
end

section
/-! O7, O18: a run of the command stream, and the write of one wave frame (20_memory.md R70, R73, R75, R85). No command reads the commands
still to come, so a command's meaning and the taking of bytes off the stream may change places. -/

namespace Sys2Proof.Machine

/-! ### A command's meaning does not depend on the rest of the stream (log 4) -/

theorem onChannel_withStream (s : State) (bytes : List Byte) (c : Nat) (f : Channel Rat → Channel Rat) :
    (s.withStream bytes).onChannel c f = (s.onChannel c f).withStream bytes := by
  unfold State.onChannel State.channel?
  rw [withStream_channels]
  cases s.channels[c]? <;> rfl

theorem guarded_onChannel_withStream (g : Prop) [Decidable g] (s : State) (bytes : List Byte) (c : Nat) (f : Channel Rat → Channel Rat) :
    (if g then (s.withStream bytes).onChannel c f else s.withStream bytes)
      = (if g then s.onChannel c f else s).withStream bytes := by
  split
  · exact onChannel_withStream s bytes c f
  · rfl

theorem onDescriptor_withStream (s : State) (bytes : List Byte) (d : Nat) (f : Descriptor → Descriptor) :
    (s.withStream bytes).onDescriptor d f = (s.onDescriptor d f).withStream bytes := by
  unfold State.onDescriptor
  rw [withStream_wd]
  cases s.wd[d]? <;> rfl

theorem onOwner_withStream (s : State) (bytes : List Byte) (o : Nat) (f : FxUnits Rat → FxUnits Rat) :
    (s.withStream bytes).onOwner o f = (s.onOwner o f).withStream bytes := by
  unfold State.onOwner
  rw [withStream_fx]
  cases s.fx[o]? <;> rfl

theorem commandOp_withStream (P : Params Rat) (i : Instr) (s : State) (bytes : List Byte) :
    commandOp P i (s.withStream bytes) = (commandOp P i s).withStream bytes := by
  cases i with
  | nop => rfl
  | frame => rfl
  | rewind => rfl
  | mclr => rfl
  | noteon c p v =>
    simp only [commandOp, noteOnOp, noteOffOp]
    split_ifs
    · exact onChannel_withStream ..
    · exact onChannel_withStream ..
    · rfl
  | noteoff c p v => exact guarded_onChannel_withStream ..
  | pbend c lsb msb => exact guarded_onChannel_withStream ..
  | wrch c idx data => exact guarded_onChannel_withStream ..
  | wrg idx data =>
    simp only [commandOp, writeGlobalOp]
    split <;> rfl
  | fxstart owner u depth =>
    simp only [commandOp, fxStartOp]
    split_ifs
    · rfl
    · rfl
    · rfl
    · exact onOwner_withStream ..
  | wavptr addr => rfl
  | wavdat left right => rfl
  | wdesc d field data =>
    simp only [commandOp, writeDescriptorOp]
    split
    · exact onDescriptor_withStream ..
    · rfl

theorem wordOp_withStream (P : Params Rat) (w : CmdWord) (s : State) (bytes : List Byte) :
    wordOp P w (s.withStream bytes) = (wordOp P w s).withStream bytes := by
  unfold wordOp
  cases decodeWord w with
  | instr i => exact commandOp_withStream P i s bytes
  | reserved r => rfl

theorem foldl_wordOp_withStream (P : Params Rat) (ws : List CmdWord) (s : State) (bytes : List Byte) :
    ws.foldl (fun s w => wordOp P w s) (s.withStream bytes) = (ws.foldl (fun s w => wordOp P w s) s).withStream bytes := by
  induction ws generalizing s with
  | nil => rfl
  | cons w ws ih => rw [List.foldl_cons, wordOp_withStream, ih, List.foldl_cons]

/-! ### A run of the stream -/

/-- R85, R118: with the word `w` in front a step takes its eight bytes and does what `w` does, reserved or not. -/
theorem step_eq_wordOp (w : CmdWord) (rest : List Byte) {s : State} (h : s.stream = bytesOfWord w ++ rest) :
    step s = .next ((wordOp Config.params w s).withStream rest) := by
  rw [← wordOp_withStream]
  unfold wordOp
  rcases step_cases s with ⟨i, tail, front, e⟩ | ⟨r, tail, front, e⟩ | ⟨front, -⟩ <;>
    rw [h, decodeBytes_bytesOfWord] at front
  · obtain ⟨hw, rfl⟩ := Prod.mk.inj (Option.some.inj front)
    rw [hw, e, exec_eq_next_commandOp]
  · obtain ⟨hw, rfl⟩ := Prod.mk.inj (Option.some.inj front)
    rw [hw, e]
  · cases front

/-- A run goes on from the state its first step answers. -/
theorem core_run_succ (M : Host.Core) {s t : M.State} (h : M.step s = .next t) (k : Nat) : M.run (k + 1) s = M.run k t := by
  rw [Host.Core.run, h]

/-- Settles O7, by induction on the words of the stream. -/
theorem streamRunIsTheFoldOfItsWords : Obligations.StreamRunIsTheFoldOfItsWords := by
  unfold Obligations.StreamRunIsTheFoldOfItsWords
  intro ws rest s h
  induction ws generalizing s with
  | nil =>
    have waiting : s.stream = rest := h
    subst waiting
    rfl
  | cons w ws ih =>
    have front : s.stream = bytesOfWord w ++ (streamOfWords ws ++ rest) := by
      rw [h, streamOfWords, List.flatMap_cons, List.append_assoc, streamOfWords]
    have later := ih ((wordOp Config.params w s).withStream (streamOfWords ws ++ rest)) (withStream_stream _ _)
    rw [foldl_wordOp_withStream] at later
    exact (core_run_succ core (step_eq_wordOp w _ front) ws.length).trans later

/-! ### WAVDAT -/

/-- R72, R73: what a wave read answers after a wave write. -/
theorem waveRead_waveWrite (P : Params Rat) (m : WaveMem) (a b : Nat) (f : WaveFrame) :
    waveRead P (waveWrite P m a f) b = if b = a ∧ b < P.wmemFrames then f else waveRead P m b := by
  split
  · next h =>
    obtain ⟨rfl, inside⟩ := h
    exact waveRead_waveWrite_self P m b f inside
  · next h =>
    by_cases hb : b = a
    · subst hb
      have outside : P.wmemFrames ≤ b := not_lt.1 fun inside => h ⟨rfl, inside⟩
      rw [waveRead_outside P _ b outside, waveRead_outside P _ b outside]
    · exact waveRead_waveWrite_ne P m a b f hb

theorem waveWrite_outside (P : Params Rat) (m : WaveMem) {a : Nat} (f : WaveFrame) (h : P.wmemFrames ≤ a) :
    waveWrite P m a f = m := if_neg h.not_gt

/-- Settles O18: WAVDAT is the wave write at WPTR, and the pointer moved on. -/
theorem wavdatWritesOneFrame : Obligations.WavdatWritesOneFrame := by
  unfold Obligations.WavdatWritesOneFrame
  intro left right s
  exact ⟨waveWrite Config.params s.wmem s.wptr.toNat ⟨left, right⟩, rfl, fun h => waveWrite_outside _ _ _ h,
    fun a => waveRead_waveWrite Config.params s.wmem s.wptr.toNat a ⟨left, right⟩⟩

end Sys2Proof.Machine
end

section
/-! O54: delay lines (20_memory.md R92). A line that is written at its position, which then moves on, holds the last inputs; the chorus
history (42_chorus_echo.md R210) and the pre-delay (43_reverb.md R233) are two such lines. -/

namespace Sys2Proof.Machine

set_option linter.unusedSectionVars false

variable {α : Type} [Field α] [LinearOrder α] [FloorRing α] {P : Params α}

/-! ### Positions of a ring, and the inputs of some calls ago -/

/-- R92: the entry `d` behind the position, `d` from 1 to the length. -/
theorem ringIndex_eq {w d len : Nat} (hw : w < len) (hd : 1 ≤ d) (hlen : d ≤ len) :
    ringIndex w d len = if d ≤ w then w - d else w + len - d := by
  unfold ringIndex
  split
  · rw [show w + len - d = w - d + len by omega, Nat.add_mod_right, Nat.mod_eq_of_lt (by omega)]
  · exact Nat.mod_eq_of_lt (by omega)

theorem ringIndex_len {w len : Nat} (hw : w < len) : ringIndex w len len = w := by
  rw [ringIndex, Nat.add_sub_cancel, Nat.mod_eq_of_lt hw]

/-- Where a position moves to. -/
theorem ring_succ {w len : Nat} (hw : w < len) : (w + 1) % len = if w + 1 = len then 0 else w + 1 := by
  split
  · next h => rw [h, Nat.mod_self]
  · exact Nat.mod_eq_of_lt (by omega)

/-- One behind the moved position is the entry just written. -/
theorem ringIndex_succ_one {w len : Nat} (hw : w < len) : ringIndex ((w + 1) % len) 1 len = w := by
  rw [ringIndex_eq (ring_succ_lt hw) le_rfl (by omega), ring_succ hw]
  split <;> split <;> omega

/-- Behind the moved position every delay is one more, and none of the older entries is the one just written. -/
theorem ringIndex_succ_succ {w d len : Nat} (hw : w < len) (hd : 1 ≤ d) (hlen : d < len) :
    ringIndex ((w + 1) % len) (d + 1) len = ringIndex w d len ∧ ringIndex w d len ≠ w := by
  rw [ringIndex_eq (ring_succ_lt hw) (by omega) hlen, ringIndex_eq hw hd hlen.le, ring_succ hw]
  split <;> split <;> split <;> omega

theorem inputAgo_nil {d : Nat} (hd : 1 ≤ d) : inputAgo ([] : List α) d = 0 :=
  if_neg (Nat.not_le.2 hd)

theorem inputAgo_concat_one (xs : List α) (x : α) : inputAgo (xs ++ [x]) 1 = x := by
  simp [inputAgo]

theorem inputAgo_concat_succ (xs : List α) (x : α) {d : Nat} (hd : 1 ≤ d) : inputAgo (xs ++ [x]) (d + 1) = inputAgo xs d := by
  unfold inputAgo
  rw [List.length_append, List.length_singleton]
  by_cases h : d ≤ xs.length
  · rw [if_pos (by omega), if_pos h, Nat.add_sub_add_right, List.getD_append _ _ _ _ (by omega)]
  · rw [if_neg (by omega), if_neg h]

/-! ### A line that replays its input -/

/-- R92: a delay line of `len` entries at position `w` holds the last `len` of the inputs `xs`, 0 where there was none. -/
structure Replays (len : Nat) (b : Line α) (w : Nat) (xs : List α) : Prop where
  position : w < len
  canonical : lineWf len b = true
  replay : ∀ d, 1 ≤ d → d ≤ len → lineRead b (ringIndex w d len) = inputAgo xs d

theorem Replays.cleared {len w : Nat} (hw : w < len) : Replays len ([] : Line α) w [] :=
  ⟨hw, rfl, fun _ hd _ => (inputAgo_nil hd).symm⟩

/-- Writing the next input and moving on. -/
theorem Replays.write {len : Nat} {b : Line α} {w : Nat} {xs : List α} (h : Replays len b w xs) (x : α) :
    Replays len (lineWrite b w x) ((w + 1) % len) (xs ++ [x]) where
  position := ring_succ_lt h.position
  canonical := lineWrite_wf len b w x h.position h.canonical
  replay := by
    intro d hd hlen
    cases d with
    | zero => exact absurd hd (by decide)
    | succ d =>
      cases d with
      | zero =>
        have sorted : sparseWf len b = true := ((Bool.and_eq_true _ _).mp h.canonical).1
        rw [zero_add, ringIndex_succ_one h.position, inputAgo_concat_one, lineRead_lineWrite_self len b w x sorted]
      | succ d =>
        obtain ⟨same, older⟩ := ringIndex_succ_succ h.position (Nat.le_add_left 1 d) hlen
        rw [same, lineRead_lineWrite_ne b w _ x older, inputAgo_concat_succ xs x (Nat.le_add_left 1 d)]
        exact h.replay (d + 1) (Nat.le_add_left 1 d) (by omega)

/-- The entry at the position, the next to be overwritten, is the oldest input held. -/
theorem Replays.oldest {len : Nat} {b : Line α} {w : Nat} {xs : List α} (h : Replays len b w xs) :
    lineRead b w = inputAgo xs len := by
  have oldest := h.replay len (Nat.one_le_of_lt h.position) le_rfl
  rwa [ringIndex_len h.position] at oldest

/-! ### The chorus -/

theorem chorus_fed_concat (x : Chorus α) (ins : List (Stereo α)) (s : Stereo α) :
    x.fed P (ins ++ [s]) = ((x.fed P ins).wet P s).2 := by
  rw [Chorus.fed, List.foldl_append]
  rfl

@[simp] theorem chorus_fed_depth (x : Chorus α) (ins : List (Stereo α)) : (x.fed P ins).depth = x.depth := by
  induction ins using List.reverseRecOn with
  | nil => rfl
  | append_singleton ins s ih => rw [chorus_fed_concat]; exact ih

theorem chorus_fed_lfoN {x : Chorus α} (hx : x.lfoN < P.chLfoPeriod) (ins : List (Stereo α)) :
    (x.fed P ins).lfoN = (x.lfoN + ins.length) % P.chLfoPeriod := by
  induction ins using List.reverseRecOn with
  | nil => exact (Nat.mod_eq_of_lt hx).symm
  | append_singleton ins s ih =>
    have moved : ((x.fed P ins).wet P s).2.lfoN = ((x.fed P ins).lfoN + 1) % P.chLfoPeriod := rfl
    rw [chorus_fed_concat, moved, ih, Nat.mod_add_mod, List.length_append, List.length_singleton, add_assoc]

/-- R210: the chorus history replays the mono input. -/
theorem chorus_fed_replays (hE : ExactNum P.num) {x : Chorus α} (cleared : x.hist = []) (hw : x.w < P.chorusLen)
    (ins : List (Stereo α)) :
    Replays P.chorusLen (x.fed P ins).hist (x.fed P ins).w (ins.map fun s => (s.l + s.r) / 2) := by
  induction ins using List.reverseRecOn with
  | nil =>
    have start : Replays P.chorusLen x.hist x.w [] := cleared ▸ Replays.cleared hw
    exact start
  | append_singleton ins s ih =>
    have next := ih.write ((s.l + s.r) / 2)
    rw [chorus_fed_concat, List.map_append, List.map_singleton]
    simpa only [Chorus.wet, div_exact hE, add_exact hE] using next

variable [IsStrictOrderedRing α]

theorem absQ_eq_abs (x : α) : absQ x = |x| := by
  unfold absQ
  split
  · next neg => exact (abs_of_neg neg).symm
  · next nonneg => exact (abs_of_nonneg (not_lt.1 nonneg)).symm

theorem tapLfo_exact (hE : ExactNum P.num) (n : Nat) (t : Tap α) : tapLfo P n t = lfoFactor P n t := by
  simp only [tapLfo, tri01, lfoFactor, natQ, absQ_eq_abs, add_exact hE, sub_exact hE, mul_exact hE, div_exact hE, frac_exact hE,
    Int.fract]

/-- R210: a tap adds the entry of its delay times its gain, its LFO factor and its pan shares. -/
theorem tapOutput_exact (hE : ExactNum P.num) (x : Chorus α) (t : Tap α) :
    tapOutput P x t = tapShare P x.depth x.lfoN t (lineRead x.hist (ringIndex x.w t.delay P.chorusLen)) := by
  simp only [tapOutput, tapShare, Num.prod, List.foldl_cons, List.foldl_nil, per127, natQ, tapLfo_exact hE, mul_exact hE,
    div_exact hE, sub_exact hE, mul_div_assoc]

/-- In exact arithmetic a left-to-right stereo sum is the sum of each side. -/
theorem foldl_stereoAdd_exact {β : Type} {N : Num α} (hE : ExactNum N) (f : β → Stereo α) (ts : List β) (acc : Stereo α) :
    ts.foldl (fun acc t => acc.add N (f t)) acc
      = ⟨acc.l + (stereoSum (ts.map f)).l, acc.r + (stereoSum (ts.map f)).r⟩ := by
  induction ts generalizing acc with
  | nil => simp [stereoSum]
  | cons t ts ih =>
    rw [List.foldl_cons, ih]
    simp only [stereoSum, Stereo.add, add_exact hE, List.map_cons, List.sum_cons, add_assoc]

theorem chorus_wet_exact (hE : ExactNum P.num) (x : Chorus α) (s : Stereo α) :
    (x.wet P s).1 = stereoSum (P.chTaps.map fun t =>
      tapShare P x.depth x.lfoN t (lineRead x.hist (ringIndex x.w t.delay P.chorusLen))) := by
  have taps : (x.wet P s).1 = P.chTaps.foldl (fun acc t => acc.add P.num (tapOutput P x t)) Stereo.zero := rfl
  rw [taps, foldl_stereoAdd_exact hE]
  simp only [Stereo.zero, zero_add]
  exact congrArg stereoSum (List.map_congr_left fun t _ => tapOutput_exact hE x t)

theorem tap_delay_le {t : Tap α} (ht : t ∈ P.chTaps) : t.delay ≤ P.chorusLen :=
  le_foldl_max 0 (List.mem_map_of_mem ht)

/-! ### The pre-delay -/

theorem predelayFed_concat (v : Reverb α) (xs : List α) (x : α) :
    v.predelayFed P (xs ++ [x]) = ((v.predelayFed P xs).predelay P x).2 := by
  rw [Reverb.predelayFed, List.foldl_append]
  rfl

/-- R233: a pre-delay of some length reads the entry at its position, then writes its input there. -/
theorem predelay_of_ne_zero (h : P.revPredelay ≠ 0) (v : Reverb α) (x0 : α) :
    v.predelay P x0
      = (lineRead v.pre v.pw, { v with pre := lineWrite v.pre v.pw x0, pw := (v.pw + 1) % P.revPredelay }) := if_neg h

theorem predelayFed_replays {v : Reverb α} (cleared : v.pre = []) (hw : v.pw < P.revPredelay) (xs : List α) :
    Replays P.revPredelay (v.predelayFed P xs).pre (v.predelayFed P xs).pw xs := by
  induction xs using List.reverseRecOn with
  | nil =>
    have start : Replays P.revPredelay v.pre v.pw [] := cleared ▸ Replays.cleared hw
    exact start
  | append_singleton xs x ih =>
    rw [predelayFed_concat, predelay_of_ne_zero (Nat.ne_zero_of_lt hw)]
    exact ih.write x

/-- Settles O54: the chorus history and the pre-delay are lines that replay their input. -/
theorem delayLinesReplayTheirInput : Obligations.DelayLinesReplayTheirInput := by
  unfold Obligations.DelayLinesReplayTheirInput
  intro α _ _ _ _ P
  constructor
  · intro x ins hE cleared hw
    have history := chorus_fed_replays hE cleared hw ins
    refine ⟨history.replay, fun hlfo delays s => ?_⟩
    rw [chorus_wet_exact hE, chorus_fed_depth, chorus_fed_lfoN hlfo]
    congr 1
    refine List.map_congr_left fun t ht => ?_
    rw [history.replay t.delay (delays t ht) (tap_delay_le ht)]
  · intro v xs x0 cleared hw
    split
    · next absent => exact congrArg Prod.fst (if_pos absent)
    · next present =>
      rw [predelay_of_ne_zero present]
      exact (predelayFed_replays cleared (hw (Nat.pos_of_ne_zero present)) xs).oldest

end Sys2Proof.Machine
end

section
/-! O57: the read port (20_memory.md R80). A request's bytes name the space and the two indices; each space is then read by what the state
holds there. -/

namespace Sys2Proof.Machine

set_option linter.unusedSectionVars false

variable {α : Type} [Field α] [LinearOrder α] [FloorRing α]

/-! ### The bytes of a request -/

theorem request_space (space a b low : BitVec 8) : (request space a b low).extractLsb' 24 8 = space :=
  BitVec.extractLsb'_append_eq_left

theorem request_first (space a b low : BitVec 8) : (request space a b low).extractLsb' 16 8 = a :=
  (BitVec.extractLsb'_append_eq_of_add_le (by decide)).trans BitVec.extractLsb'_append_eq_left

theorem request_second (space a b low : BitVec 8) : (request space a b low).extractLsb' 8 8 = b :=
  (BitVec.extractLsb'_append_eq_of_add_le (by decide)).trans
    ((BitVec.extractLsb'_append_eq_of_add_le (by decide)).trans BitVec.extractLsb'_append_eq_left)

section
variable (P : Params α) (s : State α) (a b low : BitVec 8)

theorem readPortOf_global : readPortOf P s (request 0 a b low) = readGlobal s b.toNat := by
  rw [readPortOf, request_space, request_second]
  rfl

theorem readPortOf_channel : readPortOf P s (request 1 a b low) = readChannel P s a.toNat b.toNat := by
  rw [readPortOf, request_space, request_first, request_second]
  rfl

theorem readPortOf_unit : readPortOf P s (request 2 a b low) = readUnit P s a.toNat b.toNat := by
  rw [readPortOf, request_space, request_first, request_second]
  rfl

theorem readPortOf_descriptor : readPortOf P s (request 3 a b low) = readDescriptor P s a.toNat b.toNat := by
  rw [readPortOf, request_space, request_first, request_second]
  rfl

theorem readPortOf_no_space {space : BitVec 8} (h : 4 ≤ space.toNat) : readPortOf P s (request space a b low) = 0 := by
  rw [readPortOf, request_space]
  split
  case h_5 => rfl
  all_goals omega

end

/-! ### What is not there reads 0 -/

theorem readGlobal_eq_zero (s : State α) {n : Nat} (h : n ∉ [0x00, 0x10, 0x11, 0x12, 0x13, 0x14]) : readGlobal s n = 0 := by
  unfold readGlobal
  split
  case h_7 => rfl
  all_goals exact absurd (by decide) h

theorem readReg_eq_zero (ch : Channel α) {n : Nat} (h : 0x11 < n ∧ n < 0x20 ∨ 0x22 < n) : ch.readReg n = 0 := by
  unfold Channel.readReg
  split
  case h_22 => rfl
  all_goals omega

theorem depthOf_eq_zero (P : Params α) (x : FxUnits α) {n : Nat} (h : n = 1 ∧ P.hasEcho = false ∨ 2 < n) : x.depthOf P n = 0 := by
  unfold FxUnits.depthOf
  split
  case h_2 =>
    have absent : P.hasEcho = false := by simpa using h
    rw [absent]
    rfl
  case h_4 => rfl
  all_goals omega

theorem readField_eq_zero (x : Descriptor) {n : Nat} (h : 7 < n) : x.readField n = 0 := by
  unfold Descriptor.readField
  split
  case h_9 => rfl
  all_goals omega

/-! ### The spaces that are indexed twice -/

section
variable {P : Params α} {s : State α} {a : Nat}

theorem readChannel_of_some {ch : Channel α} (ha : a < P.nchan) (h : s.channels[a]? = some ch) (b : Nat) :
    readChannel P s a b = ch.readReg b := by
  rw [readChannel, if_pos ha, State.channel?, h]

/-- A channel that is not there, or a register no channel has. -/
theorem readChannel_eq_zero {b : Nat} (h : P.nchan ≤ a ∨ ∀ ch : Channel α, ch.readReg b = 0) : readChannel P s a b = 0 := by
  unfold readChannel
  split
  · next inside =>
    split
    · exact h.resolve_left inside.not_ge _
    · rfl
  · rfl

theorem readUnit_of_some {x : FxUnits α} (h : s.fx[ownerIndex P a]? = some x) (b : Nat) : readUnit P s a b = x.depthOf P b := by
  rw [readUnit, h]

theorem readUnit_eq_zero {b : Nat} (h : ∀ x : FxUnits α, x.depthOf P b = 0) : readUnit P s a b = 0 := by
  unfold readUnit
  split
  · exact h _
  · rfl

theorem readDescriptor_of_some {x : Descriptor} (ha : a < P.ndesc) (h : s.wd[a]? = some x) (b : Nat) :
    readDescriptor P s a b = x.readField b := by
  rw [readDescriptor, if_pos ha, h]

theorem readDescriptor_eq_zero {b : Nat} (h : ∀ x ∈ s.wd, x.readField b = 0) : readDescriptor P s a b = 0 := by
  unfold readDescriptor
  split
  · split
    · next hx => exact h _ (List.mem_of_getElem? hx)
    · rfl
  · rfl

end

/-! ### The words as numbers -/

theorem toNat_ofNat_word {n : Nat} (h : n < 2 ^ 32) : (BitVec.ofNat 32 n).toNat = n := by
  rw [BitVec.toNat_ofNat, Nat.mod_eq_of_lt h]

theorem registers_toNat (ch : Channel α) : ch.registers.map BitVec.toNat =
    [ch.variant.toNat, ch.bank.toNat, ch.program.toNat, ch.volume.toNat, ch.pan.toNat, ch.expression.toNat, ch.sustain.toNat,
      ch.soft.toNat, ch.modDepth.toNat, ch.modSpeed.toNat, ch.bendRange.toNat, ch.portaEn.toNat, ch.portaTime.toNat,
      ch.cutoff.toNat, ch.resonance.toNat, ch.sendReverb.toNat, ch.sendChorus.toNat, ch.sendEcho.toNat] := by
  have words : ch.registers.map BitVec.toNat =
      [(ch.variant.setWidth 32).toNat, (ch.bank.setWidth 32).toNat, (ch.program.setWidth 32).toNat, (ch.volume.setWidth 32).toNat,
        (ch.pan.setWidth 32).toNat, (ch.expression.setWidth 32).toNat, (ch.sustain.setWidth 32).toNat, (ch.soft.setWidth 32).toNat,
        (ch.modDepth.setWidth 32).toNat, (ch.modSpeed.setWidth 32).toNat, (ch.bendRange.setWidth 32).toNat,
        (ch.portaEn.setWidth 32).toNat, (ch.portaTime.setWidth 32).toNat, (ch.cutoff.setWidth 32).toNat,
        (ch.resonance.setWidth 32).toNat, (ch.sendReverb.setWidth 32).toNat, (ch.sendChorus.setWidth 32).toNat,
        (ch.sendEcho.setWidth 32).toNat] := rfl
  simp (disch := decide) only [words, BitVec.toNat_setWidth_of_le]

/-- Joined bit strings as a number. -/
theorem toNat_append_add {m n : Nat} (x : BitVec m) (y : BitVec n) : (x ++ y).toNat = x.toNat * 2 ^ n + y.toNat := by
  rw [BitVec.toNat_append, ← Nat.shiftLeft_add_eq_or_of_lt y.isLt, Nat.shiftLeft_eq]

theorem readField_zero_toNat (x : Descriptor) :
    (x.readField 0).toNat = x.program.toNat + 2 ^ 8 * x.bank.toNat :=
  calc (x.readField 0).toNat
      = ((0 : BitVec 10) ++ (x.bank ++ ((0 : BitVec 1) ++ x.program))).toNat := rfl
    _ = x.program.toNat + 2 ^ 8 * x.bank.toNat := by
      simp only [toNat_append_add, BitVec.ofNat_eq_ofNat, BitVec.toNat_zero]
      omega

theorem readField_one_toNat (x : Descriptor) :
    (x.readField 1).toNat = x.pitchFrom.toNat + 2 ^ 8 * x.pitchTo.toNat + 2 ^ 16 * x.nomPitch.toNat :=
  calc (x.readField 1).toNat
      = ((0 : BitVec 9) ++ (x.nomPitch ++ ((0 : BitVec 1) ++ (x.pitchTo ++ ((0 : BitVec 1) ++ x.pitchFrom))))).toNat := rfl
    _ = x.pitchFrom.toNat + 2 ^ 8 * x.pitchTo.toNat + 2 ^ 16 * x.nomPitch.toNat := by
      simp only [toNat_append_add, BitVec.ofNat_eq_ofNat, BitVec.toNat_zero]
      omega

theorem readField_two_toNat (x : Descriptor) :
    (x.readField 2).toNat = x.valid.toNat + 2 * x.loop.toNat + 4 * x.alwaysSustain.toNat :=
  calc (x.readField 2).toNat
      = ((0 : BitVec 29) ++ (x.alwaysSustain ++ (x.loop ++ x.valid))).toNat := rfl
    _ = x.valid.toNat + 2 * x.loop.toNat + 4 * x.alwaysSustain.toNat := by
      simp only [toNat_append_add, BitVec.ofNat_eq_ofNat, BitVec.toNat_zero]
      omega

/-! ### The running machine -/

section
variable {s : State} (low : BitVec 8)

theorem readPort_global (s : State) (a b low : BitVec 8) : readPort s (request 0 a b low) = readGlobal s b.toNat :=
  readPortOf_global ..

/-- R80, R44: the bookkeeping and every register of a channel. -/
theorem readPort_channel {c : BitVec 8} {ch : Channel Rat} (hc : c.toNat < 16) (h : s.channels[c.toNat]? = some ch) (b : BitVec 8) :
    readPort s (request 1 c b low) = ch.readReg b.toNat :=
  (readPortOf_channel ..).trans (readChannel_of_some hc h _)

theorem readPort_registers {c : BitVec 8} {ch : Channel Rat} (hc : c.toNat < 16) (h : s.channels[c.toNat]? = some ch) :
    (List.range 0x12).map (fun i => readPort s (request 1 c (BitVec.ofNat 8 i) low)) = ch.registers := by
  refine List.map_congr_left fun i hi => ?_
  have small : i < 0x12 := List.mem_range.1 hi
  rw [readPort_channel low hc h, BitVec.toNat_ofNat, Nat.mod_eq_of_lt (by omega)]

theorem readPort_unit {x : FxUnits Rat} (h : s.fx = [x]) (a b : BitVec 8) :
    readPort s (request 2 a b low) = x.depthOf Config.params b.toNat := by
  have owner : s.fx[ownerIndex Config.params a.toNat]? = some x := by
    rw [h]
    rfl
  exact (readPortOf_unit ..).trans (readUnit_of_some owner _)

theorem readPort_descriptor {d : BitVec 8} {x : Descriptor} (h : s.wd[d.toNat]? = some x) (b : BitVec 8) :
    readPort s (request 3 d b low) = x.readField b.toNat :=
  (readPortOf_descriptor ..).trans (readDescriptor_of_some d.isLt h _)

end

/-! ### What the port shows of a state that meets the invariant -/

section
variable {s : State} (h : s.Inv) (low : BitVec 8)
include h

theorem readPort_shows_globals (a : BitVec 8) :
    (readPort s (request 0 a 0x00 low)).toNat = s.master.toNat
      ∧ readPort s (request 0 a 0x10 low) = s.frameCnt ∧ readPort s (request 0 a 0x11 low) = s.silenceCnt
      ∧ (readPort s (request 0 a 0x12 low)).toNat = s.outPeakL ∧ (readPort s (request 0 a 0x13 low)).toNat = s.outPeakR
      ∧ readPort s (request 0 a 0x14 low) = s.wptr := by
  simp only [readPort_global]
  exact ⟨BitVec.toNat_setWidth_of_le (by decide), rfl, rfl, toNat_ofNat_word (h.peakL.trans_lt (by decide)),
    toNat_ofNat_word (h.peakR.trans_lt (by decide)), rfl⟩

theorem channel_index_lt {c : Nat} {ch : Channel Rat} (hch : s.channels[c]? = some ch) : c < 16 := by
  have inside := (List.getElem?_eq_some_iff.1 hch).1
  rwa [h.nchan, params_nchan] at inside

theorem readPort_shows_bookkeeping {c : BitVec 8} {ch : Channel Rat} (hch : s.channels[c.toNat]? = some ch) :
    (readPort s (request 1 c 0x20 low)).toNat = ch.voices.length
      ∧ (ch.lastPitch = none → readPort s (request 1 c 0x21 low) = 0xFFFFFFFF)
      ∧ (∀ p, ch.lastPitch = some p → (readPort s (request 1 c 0x21 low)).toNat = p.toNat)
      ∧ (readPort s (request 1 c 0x22 low)).toNat = ch.peak := by
  have inv := h.channels ch (List.mem_of_getElem? hch)
  have last : ch.readReg 0x21 = lastPitchWord ch.lastPitch := rfl
  simp only [readPort_channel low (channel_index_lt h hch) hch]
  refine ⟨toNat_ofNat_word (inv.cap.trans_lt (by decide)), fun unplayed => ?_, fun p played => ?_,
    toNat_ofNat_word (inv.peak.trans_lt (by decide))⟩
  · exact last.trans (congrArg lastPitchWord unplayed)
  · exact (congrArg BitVec.toNat (last.trans (congrArg lastPitchWord played))).trans (BitVec.toNat_setWidth_of_le (by decide))

end

theorem readPort_shows_depths {s : State} {x : FxUnits Rat} (h : s.fx = [x]) (low a : BitVec 8) :
    (readPort s (request 2 a 0 low)).toNat = x.chorus.depth.toNat ∧ readPort s (request 2 a 1 low) = 0
      ∧ (readPort s (request 2 a 2 low)).toNat = x.reverb.depth.toNat := by
  simp only [readPort_unit low h]
  exact ⟨BitVec.toNat_setWidth_of_le (by decide), depthOf_eq_zero _ x (.inl ⟨rfl, rfl⟩),
    BitVec.toNat_setWidth_of_le (by decide)⟩

theorem readPort_shows_fields {s : State} {d : BitVec 8} {x : Descriptor} (h : s.wd[d.toNat]? = some x) (low : BitVec 8) :
    (readPort s (request 3 d 0 low)).toNat = x.program.toNat + 2 ^ 8 * x.bank.toNat
      ∧ (readPort s (request 3 d 1 low)).toNat = x.pitchFrom.toNat + 2 ^ 8 * x.pitchTo.toNat + 2 ^ 16 * x.nomPitch.toNat
      ∧ (readPort s (request 3 d 2 low)).toNat = x.valid.toNat + 2 * x.loop.toNat + 4 * x.alwaysSustain.toNat
      ∧ readPort s (request 3 d 3 low) = x.baseAddr ∧ readPort s (request 3 d 4 low) = x.length
      ∧ readPort s (request 3 d 5 low) = x.baseFreq ∧ readPort s (request 3 d 6 low) = x.loopStart
      ∧ readPort s (request 3 d 7 low) = x.loopEnd := by
  simp only [readPort_descriptor low h]
  exact ⟨readField_zero_toNat x, readField_one_toNat x, readField_two_toNat x, rfl, rfl, rfl, rfl, rfl⟩

/-! ### The replies after reset (10_state.md R65, 70_reset_and_hazards.md R380) -/

theorem reset_channel {c : Nat} (h : c < 16) : State.reset.channels[c]? = some Channel.reset :=
  List.getElem?_replicate_of_lt h

theorem readPort_reset_channel {c : BitVec 8} (hc : c.toNat < 16) (low : BitVec 8) :
    (List.range 0x12).map (fun i => readPort State.reset (request 1 c (BitVec.ofNat 8 i) low)) =
        [0, 0, 0, 100, 64, 127, 0, 0, 0, 64, 2, 0, 0, 0, 0, 0, 0, 0]
      ∧ readPort State.reset (request 1 c 0x20 low) = 0 ∧ readPort State.reset (request 1 c 0x21 low) = 0xFFFFFFFF
      ∧ readPort State.reset (request 1 c 0x22 low) = 0 := by
  have ch := reset_channel hc
  rw [readPort_registers low hc ch]
  simp only [readPort_channel low hc ch]
  exact ⟨rfl, rfl, rfl, rfl⟩

theorem readPort_reset_global (a low : BitVec 8) {b : BitVec 8} (h : b ≠ 0) : readPort State.reset (request 0 a b low) = 0 := by
  have index : b.toNat ≠ 0 := fun e => h (BitVec.eq_of_toNat_eq e)
  rw [readPort_global]
  unfold readGlobal
  split
  case h_1 e => exact absurd e index
  all_goals rfl

theorem readPort_reset_unit (a b low : BitVec 8) : readPort State.reset (request 2 a b low) = 0 := by
  rw [readPort_unit (x := FxUnits.reset) low rfl]
  unfold FxUnits.depthOf
  split
  case h_2 => exact ite_self _
  all_goals rfl

theorem readPort_reset_descriptor (a b low : BitVec 8) : readPort State.reset (request 3 a b low) = 0 := by
  refine (readPortOf_descriptor ..).trans (readDescriptor_eq_zero fun x hx => ?_)
  rw [List.eq_of_mem_replicate hx]
  unfold Descriptor.readField
  split <;> rfl

/-! ### The obligation -/

theorem readPort_not_there (s : State) (space a b low : BitVec 8)
    (h : 4 ≤ space.toNat ∨ (space = 0 ∧ b ∉ [0x00, 0x10, 0x11, 0x12, 0x13, 0x14])
      ∨ (space = 1 ∧ (16 ≤ a.toNat ∨ (0x11 < b.toNat ∧ b.toNat < 0x20) ∨ 0x22 < b.toNat))
      ∨ (space = 2 ∧ (b = 1 ∨ 2 < b.toNat)) ∨ (space = 3 ∧ 7 < b.toNat)) :
    readPort s (request space a b low) = 0 := by
  rcases h with hspace | ⟨rfl, hb⟩ | ⟨rfl, hab⟩ | ⟨rfl, hb⟩ | ⟨rfl, hb⟩
  · exact readPortOf_no_space _ s a b low hspace
  · have index : b.toNat ∉ [0x00, 0x10, 0x11, 0x12, 0x13, 0x14] := (List.mem_map_of_injective BitVec.toNat_injective).not.2 hb
    exact (readPort_global s a b low).trans (readGlobal_eq_zero s index)
  · exact (readPortOf_channel ..).trans (readChannel_eq_zero (hab.imp_right fun hb ch => readReg_eq_zero ch hb))
  · have unit : b.toNat = 1 ∧ Config.params.hasEcho = false ∨ 2 < b.toNat := hb.imp_left fun e => ⟨congrArg BitVec.toNat e, rfl⟩
    exact (readPortOf_unit ..).trans (readUnit_eq_zero fun x => depthOf_eq_zero _ x unit)
  · exact (readPortOf_descriptor ..).trans (readDescriptor_eq_zero fun x _ => readField_eq_zero x hb)

/-- Settles O57, space by space. -/
theorem readPortShowsTheState : Obligations.ReadPortShowsTheState := by
  unfold Obligations.ReadPortShowsTheState
  refine ⟨fun s low inv => ⟨readPort_shows_globals inv low, fun c ch hch => ⟨?_, readPort_shows_bookkeeping inv low hch⟩,
    fun a x hx => readPort_shows_depths hx low a, fun d x hx => readPort_shows_fields hx low⟩,
    fun low => ⟨fun c hc => readPort_reset_channel hc low,
      fun a => ⟨readPort_global State.reset a 0 low, fun b hb => readPort_reset_global a low hb⟩,
      fun a b => ⟨readPort_reset_unit a b low, readPort_reset_descriptor a b low⟩⟩, readPort_not_there⟩
  have registers := readPort_registers low (channel_index_lt inv hch) hch
  rw [← registers_toNat, ← registers, List.map_map]
  rfl

end Sys2Proof.Machine
end

section
/-! O1, O4: decoding and encoding (30_encoding.md R101 to R106). A command's fields decode to the command, and fields that decode to a
command are that command's fields; a word is its five fields, so the same holds of words. -/

namespace Sys2Proof

open Laws.EncodesRow (fieldsOf_wordOf wordOf_fieldsOf)

/-! ### The data field of each format (R103, R105, R106) -/

theorem dataK_low (p v : BitVec 7) : (dataK p v).extractLsb' 0 7 = p := by
  rw [dataK, BitVec.extractLsb'_append_eq_of_add_le (by decide), BitVec.extractLsb'_append_eq_of_add_le (by decide),
    BitVec.extractLsb'_append_eq_right]

theorem dataK_bit (p v : BitVec 7) : (dataK p v).extractLsb' 7 1 = 0 := by
  rw [dataK, BitVec.extractLsb'_append_eq_of_add_le (by decide), BitVec.extractLsb'_append_eq_of_add_le (by decide),
    BitVec.extractLsb'_append_eq_left]

theorem dataK_high (p v : BitVec 7) : (dataK p v).extractLsb' 8 7 = v := by
  rw [dataK, BitVec.extractLsb'_append_eq_of_add_le (by decide)]
  exact BitVec.extractLsb'_append_eq_left

theorem dataK_top (p v : BitVec 7) : (dataK p v).extractLsb' 15 17 = 0 := BitVec.extractLsb'_append_eq_left

theorem dataX_low (depth : BitVec 7) : (dataX depth).extractLsb' 0 7 = depth := BitVec.extractLsb'_append_eq_right

theorem dataX_top (depth : BitVec 7) : (dataX depth).extractLsb' 7 25 = 0 := BitVec.extractLsb'_append_eq_left

theorem dataW_low (left right : BitVec 16) : (dataW left right).extractLsb' 0 16 = left := BitVec.extractLsb'_append_eq_right

theorem dataW_high (left right : BitVec 16) : (dataW left right).extractLsb' 16 16 = right := BitVec.extractLsb'_append_eq_left

/-- R103: data with the must-be-zero bits of format K zero is its two 7-bit values. -/
theorem dataK_of_zero {data : Word} (bit : data.extractLsb' 7 1 = 0) (top : data.extractLsb' 15 17 = 0) :
    dataK (data.extractLsb' 0 7) (data.extractLsb' 8 7) = data := by
  rw [dataK, ← bit, ← top, BitVec.extractLsb'_append_extractLsb'_eq_extractLsb' (by rfl),
    BitVec.extractLsb'_append_extractLsb'_eq_extractLsb' (by rfl), BitVec.extractLsb'_append_extractLsb'_eq_extractLsb' (by rfl)]
  exact BitVec.extractLsb'_eq_self

/-- R105: data with the must-be-zero bits of format X zero is its 7-bit value. -/
theorem dataX_of_zero {data : Word} (top : data.extractLsb' 7 25 = 0) : dataX (data.extractLsb' 0 7) = data := by
  rw [dataX, ← top]
  exact BitVec.extractLsb'_append_extractLsb'

/-- R106: any data is two samples. -/
theorem dataW_samples (data : Word) : dataW (data.extractLsb' 0 16) (data.extractLsb' 16 16) = data :=
  BitVec.extractLsb'_append_extractLsb'

/-! ### Fields whose must-be-zero fields are zero are those of a command (R102 to R106) -/

section
variable {f : Fields} {op : BitVec 8}

theorem fields_of_zeroZ (hop : f.op = op) (zero : f.zeroZ = true) : (⟨op, 0, 0, 0, 0⟩ : Fields) = f := by
  obtain ⟨_, a, b, z, data⟩ := f
  simp only [Fields.zeroZ, Bool.and_eq_true, beq_iff_eq] at hop zero
  obtain ⟨⟨⟨rfl, rfl⟩, rfl⟩, rfl⟩ := zero
  rw [hop]

theorem fields_of_zeroK (hop : f.op = op) (zero : f.zeroK = true) :
    (⟨op, f.a, 0, 0, dataK f.low7 f.high7⟩ : Fields) = f := by
  obtain ⟨_, a, b, z, data⟩ := f
  simp only [Fields.zeroK, Bool.and_eq_true, beq_iff_eq] at hop zero
  obtain ⟨⟨⟨rfl, rfl⟩, bit⟩, top⟩ := zero
  rw [hop, Fields.low7, Fields.high7, dataK_of_zero bit top]

theorem fields_of_zeroR (hop : f.op = op) (zero : f.zeroR = true) : (⟨op, f.a, f.b, 0, f.data⟩ : Fields) = f := by
  obtain ⟨_, a, b, z, data⟩ := f
  simp only [Fields.zeroR, beq_iff_eq] at hop zero
  rw [hop, zero]

theorem fields_of_zeroR_zero_a (hop : f.op = op) (zero : (f.zeroR && f.a == 0) = true) :
    (⟨op, 0, f.b, 0, f.data⟩ : Fields) = f := by
  rw [Bool.and_eq_true, beq_iff_eq] at zero
  obtain ⟨zero, a⟩ := zero
  exact a ▸ fields_of_zeroR hop zero

theorem fields_of_zeroX (hop : f.op = op) (zero : f.zeroX = true) : (⟨op, f.a, f.b, 0, dataX f.low7⟩ : Fields) = f := by
  obtain ⟨_, a, b, z, data⟩ := f
  simp only [Fields.zeroX, Bool.and_eq_true, beq_iff_eq] at hop zero
  obtain ⟨rfl, top⟩ := zero
  rw [hop, Fields.low7, dataX_of_zero top]

theorem fields_of_zeroW (hop : f.op = op) (zero : f.zeroW = true) : (⟨op, 0, 0, 0, f.data⟩ : Fields) = f := by
  obtain ⟨_, a, b, z, data⟩ := f
  simp only [Fields.zeroW, Bool.and_eq_true, beq_iff_eq] at hop zero
  obtain ⟨⟨rfl, rfl⟩, rfl⟩ := zero
  rw [hop]

theorem fields_of_zeroW_samples (hop : f.op = op) (zero : f.zeroW = true) :
    (⟨op, 0, 0, 0, dataW (f.data.extractLsb' 0 16) (f.data.extractLsb' 16 16)⟩ : Fields) = f := by
  rw [dataW_samples, fields_of_zeroW hop zero]

end

/-! ### Decoding is the inverse of encoding, on fields, words and bytes -/

/-- The fields of format K, at any two 7-bit values, pass the check of the format and give these values back (R103). -/
theorem guarded_formatK (op c : BitVec 8) (p v : BitVec 7) (command : BitVec 8 → BitVec 7 → BitVec 7 → Instr) :
    guarded (Fields.zeroK ⟨op, c, 0, 0, dataK p v⟩)
        (command c (Fields.low7 ⟨op, c, 0, 0, dataK p v⟩) (Fields.high7 ⟨op, c, 0, 0, dataK p v⟩)) = .instr (command c p v) := by
  simp [guarded, Fields.zeroK, Fields.low7, Fields.high7, dataK_low, dataK_bit, dataK_high, dataK_top]

theorem decodeFields_encodeFields (i : Instr) : decodeFields (encodeFields i) = .instr i := by
  cases i with
  | nop => rfl
  | frame => rfl
  | rewind => rfl
  | mclr => rfl
  | noteon c p v => exact guarded_formatK 0x10 c p v .noteon
  | noteoff c p v => exact guarded_formatK 0x11 c p v .noteoff
  | pbend c lsb msb => exact guarded_formatK 0x12 c lsb msb .pbend
  | wrch c idx data => rfl
  | wrg idx data => rfl
  | fxstart owner u depth =>
    simp [encodeFields, decodeFields, guarded, Fields.zeroX, Fields.low7, dataX_low, dataX_top]
  | wavptr addr => rfl
  | wavdat left right => simp [encodeFields, decodeFields, guarded, Fields.zeroW, dataW_low, dataW_high]
  | wdesc d field data => rfl

/-- One test of the decoder: the word is this opcode's command with its must-be-zero fields zero, or the later tests decide. -/
theorem instr_of_guarded_or {p : Prop} [Decidable p] {ok : Bool} {i j : Instr} {later : Decoded}
    (h : (if p then guarded ok j else later) = .instr i) : (p ∧ ok = true ∧ j = i) ∨ later = .instr i := by
  split at h
  · cases ok <;> cases h
    exact .inl ⟨‹p›, rfl, rfl⟩
  · exact .inr h

theorem encodeFields_of_decodeFields {f : Fields} {i : Instr} (h : decodeFields f = .instr i) : encodeFields i = f := by
  unfold decodeFields at h
  obtain ⟨op, zero, rfl⟩ | h := instr_of_guarded_or h
  · exact fields_of_zeroZ op zero
  obtain ⟨op, zero, rfl⟩ | h := instr_of_guarded_or h
  · exact fields_of_zeroZ op zero
  obtain ⟨op, zero, rfl⟩ | h := instr_of_guarded_or h
  · exact fields_of_zeroZ op zero
  obtain ⟨op, zero, rfl⟩ | h := instr_of_guarded_or h
  · exact fields_of_zeroZ op zero
  obtain ⟨op, zero, rfl⟩ | h := instr_of_guarded_or h
  · exact fields_of_zeroK op zero
  obtain ⟨op, zero, rfl⟩ | h := instr_of_guarded_or h
  · exact fields_of_zeroK op zero
  obtain ⟨op, zero, rfl⟩ | h := instr_of_guarded_or h
  · exact fields_of_zeroK op zero
  obtain ⟨op, zero, rfl⟩ | h := instr_of_guarded_or h
  · exact fields_of_zeroR op zero
  obtain ⟨op, zero, rfl⟩ | h := instr_of_guarded_or h
  · exact fields_of_zeroR_zero_a op zero
  obtain ⟨op, zero, rfl⟩ | h := instr_of_guarded_or h
  · exact fields_of_zeroX op zero
  obtain ⟨op, zero, rfl⟩ | h := instr_of_guarded_or h
  · exact fields_of_zeroW op zero
  obtain ⟨op, zero, rfl⟩ | h := instr_of_guarded_or h
  · exact fields_of_zeroW_samples op zero
  obtain ⟨op, zero, rfl⟩ | h := instr_of_guarded_or h
  · exact fields_of_zeroR op zero
  cases h

/-- A word decodes to a command exactly if its fields are the command's. -/
theorem decodeWord_eq_instr_iff {w : CmdWord} {i : Instr} : decodeWord w = .instr i ↔ encodeFields i = fieldsOf w :=
  ⟨encodeFields_of_decodeFields, fun h => by rw [decodeWord, ← h, decodeFields_encodeFields]⟩

theorem decodeWord_encode (i : Instr) : decodeWord (encode i) = .instr i :=
  decodeWord_eq_instr_iff.2 (fieldsOf_wordOf _).symm

theorem encode_of_decodeWord {w : CmdWord} {i : Instr} (h : decodeWord w = .instr i) : encode i = w := by
  rw [encode, decodeWord_eq_instr_iff.1 h, wordOf_fieldsOf]

/-- Settles O1, through the fields of a word. -/
theorem decodeAndEncodeAreInverse : Obligations.DecodeAndEncodeAreInverse := by
  unfold Obligations.DecodeAndEncodeAreInverse
  refine ⟨fun i rest => ?_, fun w i => encode_of_decodeWord⟩
  rw [Machine.decodeBytes_bytesOfWord, decodeWord_encode]

/-- Settles O4: each word is decoded. -/
theorem sampleWordsDecode : Obligations.SampleWordsDecode := by
  unfold Obligations.SampleWordsDecode
  decide

end Sys2Proof
end

section
/-! O2, O3: the opcode map (30_encoding.md R115, R118). A word that hits a row has the row's opcode and, in every field the row's mask
covers, the row's bits; no two rows have the same opcode. -/

namespace Sys2Proof

open Machine
open Laws.EncodesRow (fieldsOf_wordOf wordOf_fieldsOf wordOf_and)

/-! ### The rows, by mnemonic and by opcode -/

/-- The opcode of a row (R101). -/
def OpcodeRow.opcode (r : OpcodeRow) : BitVec 8 := r.matchBits.extractLsb' 56 8

theorem row_eq_of_mnemonic : ∀ r ∈ opcodeMap, ∀ q ∈ opcodeMap, r.mnemonic = q.mnemonic → r = q := by decide

theorem row_eq_of_opcode : ∀ r ∈ opcodeMap, ∀ q ∈ opcodeMap, r.opcode = q.opcode → r = q := by decide

theorem opcode_mem_definedOpcodes : ∀ r ∈ opcodeMap, r.opcode ∈ definedOpcodes := by decide

/-- Every row's mask covers the opcode. -/
theorem mask_opcode : ∀ r ∈ opcodeMap, r.mask.extractLsb' 56 8 = BitVec.allOnes 8 := by decide

theorem opcode_of_hits {w : CmdWord} {r : OpcodeRow} (hr : r ∈ opcodeMap) (h : r.hits w) : w.extractLsb' 56 8 = r.opcode := by
  rw [OpcodeRow.opcode, ← h, BitVec.extractLsb'_and, mask_opcode r hr, BitVec.and_allOnes]

theorem row_eq_of_hits {w : CmdWord} {r q : OpcodeRow} (hr : r ∈ opcodeMap) (hq : q ∈ opcodeMap) (h : r.hits w) (h' : q.hits w) :
    r = q :=
  row_eq_of_opcode r hr q hq ((opcode_of_hits hr h).symm.trans (opcode_of_hits hq h'))

/-- The word of a command hits the row with the command's mnemonic. -/
theorem encode_hits_row (i : Instr) : Laws.EncodesRow.Statement i := by
  cases i with
  | nop => exact Laws.EncodesRow.nop
  | frame => exact Laws.EncodesRow.frame
  | rewind => exact Laws.EncodesRow.rewind
  | mclr => exact Laws.EncodesRow.mclr
  | noteon c p v => exact Laws.EncodesRow.noteon c p v
  | noteoff c p v => exact Laws.EncodesRow.noteoff c p v
  | pbend c lsb msb => exact Laws.EncodesRow.pbend c lsb msb
  | wrch c idx data => exact Laws.EncodesRow.wrch c idx data
  | wrg idx data => exact Laws.EncodesRow.wrg idx data
  | fxstart owner u depth => exact Laws.EncodesRow.fxstart owner u depth
  | wavptr addr => exact Laws.EncodesRow.wavptr addr
  | wavdat left right => exact Laws.EncodesRow.wavdat left right
  | wdesc d field data => exact Laws.EncodesRow.wdesc d field data

theorem hits_row_of_decodeWord {w : CmdWord} {i : Instr} (h : decodeWord w = .instr i) :
    ∃ r ∈ opcodeMap, r.mnemonic = mnemonicOf i ∧ r.hits w :=
  encode_of_decodeWord h ▸ encode_hits_row i

/-! ### A word that hits a row has the must-be-zero fields of the row's format zero (R102 to R106) -/

/-- The fields of `f` under the mask `m`. -/
def Fields.masked (f m : Fields) : Fields := ⟨f.op &&& m.op, f.a &&& m.a, f.b &&& m.b, f.z &&& m.z, f.data &&& m.data⟩

theorem masked_of_hits {w : CmdWord} {r : OpcodeRow} {m k : Fields} (hm : r.mask = wordOf m) (hk : r.matchBits = wordOf k)
    (h : r.hits w) : (fieldsOf w).masked m = k :=
  calc (fieldsOf w).masked m = fieldsOf (wordOf (fieldsOf w) &&& wordOf m) := by rw [wordOf_and, fieldsOf_wordOf, Fields.masked]
    _ = fieldsOf r.matchBits := by rw [wordOf_fieldsOf, ← hm, h]
    _ = k := by rw [hk, fieldsOf_wordOf]

theorem and_full (x : BitVec 8) : x &&& 0xFF = x := BitVec.and_allOnes

/-- A must-be-zero part of the data that the mask covers is zero. -/
theorem extract_of_masked {data mask : Word} {start len : Nat} (h : data &&& mask = 0)
    (covers : mask.extractLsb' start len = BitVec.allOnes len) : data.extractLsb' start len = 0 := by
  rw [← BitVec.and_allOnes (x := data.extractLsb' start len), ← covers, ← BitVec.extractLsb'_and, h]
  exact BitVec.extractLsb'_zero

section
variable {f : Fields} {op : BitVec 8}

theorem zeroZ_of_masked (h : f.masked ⟨0xFF, 0xFF, 0xFF, 0xFF, 0xFFFFFFFF⟩ = ⟨op, 0, 0, 0, 0⟩) : f.op = op ∧ f.zeroZ = true := by
  simp only [Fields.masked, and_full, Fields.mk.injEq] at h
  obtain ⟨hop, a, b, z, data⟩ := h
  have hdata : f.data = 0 := BitVec.and_allOnes.symm.trans data
  exact ⟨hop, by simp [Fields.zeroZ, a, b, z, hdata]⟩

theorem zeroK_of_masked (h : f.masked ⟨0xFF, 0, 0xFF, 0xFF, 0xFFFF8080⟩ = ⟨op, 0, 0, 0, 0⟩) : f.op = op ∧ f.zeroK = true := by
  simp only [Fields.masked, and_full, Fields.mk.injEq] at h
  obtain ⟨hop, -, b, z, data⟩ := h
  have bit : f.data.extractLsb' 7 1 = 0 := extract_of_masked data (by decide)
  have top : f.data.extractLsb' 15 17 = 0 := extract_of_masked data (by decide)
  exact ⟨hop, by simp [Fields.zeroK, b, z, bit, top]⟩

theorem zeroR_of_masked (h : f.masked ⟨0xFF, 0, 0, 0xFF, 0⟩ = ⟨op, 0, 0, 0, 0⟩) : f.op = op ∧ f.zeroR = true := by
  simp only [Fields.masked, and_full, Fields.mk.injEq] at h
  obtain ⟨hop, -, -, z, -⟩ := h
  exact ⟨hop, by simp [Fields.zeroR, z]⟩

theorem zeroR_zero_a_of_masked (h : f.masked ⟨0xFF, 0xFF, 0, 0xFF, 0⟩ = ⟨op, 0, 0, 0, 0⟩) :
    f.op = op ∧ (f.zeroR && f.a == 0) = true := by
  simp only [Fields.masked, and_full, Fields.mk.injEq] at h
  obtain ⟨hop, a, -, z, -⟩ := h
  exact ⟨hop, by simp [Fields.zeroR, a, z]⟩

theorem zeroX_of_masked (h : f.masked ⟨0xFF, 0, 0, 0xFF, 0xFFFFFF80⟩ = ⟨op, 0, 0, 0, 0⟩) : f.op = op ∧ f.zeroX = true := by
  simp only [Fields.masked, and_full, Fields.mk.injEq] at h
  obtain ⟨hop, -, -, z, data⟩ := h
  have top : f.data.extractLsb' 7 25 = 0 := extract_of_masked data (by decide)
  exact ⟨hop, by simp [Fields.zeroX, z, top]⟩

theorem zeroW_of_masked (h : f.masked ⟨0xFF, 0xFF, 0xFF, 0xFF, 0⟩ = ⟨op, 0, 0, 0, 0⟩) : f.op = op ∧ f.zeroW = true := by
  simp only [Fields.masked, and_full, Fields.mk.injEq] at h
  obtain ⟨hop, a, b, z, -⟩ := h
  exact ⟨hop, by simp [Fields.zeroW, a, b, z]⟩

end

/-! ### A word that hits a row decodes to the row's command, its operands the row's free fields (R115) -/

theorem decodeWord_of_hits {w : CmdWord} {r : OpcodeRow} (hr : r ∈ opcodeMap) (h : r.hits w) :
    ∃ i, decodeWord w = .instr i ∧ mnemonicOf i = r.mnemonic := by
  have command (i : Instr) (e : encodeFields i = fieldsOf w) : ∃ j, decodeWord w = .instr j ∧ mnemonicOf j = mnemonicOf i :=
    ⟨i, decodeWord_eq_instr_iff.2 e, rfl⟩
  simp only [opcodeMap, List.mem_cons, List.not_mem_nil, or_false] at hr
  rcases hr with rfl | rfl | rfl | rfl | rfl | rfl | rfl | rfl | rfl | rfl | rfl | rfl | rfl
  · obtain ⟨op, zero⟩ := zeroZ_of_masked (op := 0x00) (masked_of_hits (by decide) (by decide) h)
    exact command .nop (fields_of_zeroZ op zero)
  · obtain ⟨op, zero⟩ := zeroZ_of_masked (op := 0x01) (masked_of_hits (by decide) (by decide) h)
    exact command .frame (fields_of_zeroZ op zero)
  · obtain ⟨op, zero⟩ := zeroZ_of_masked (op := 0x02) (masked_of_hits (by decide) (by decide) h)
    exact command .rewind (fields_of_zeroZ op zero)
  · obtain ⟨op, zero⟩ := zeroZ_of_masked (op := 0x03) (masked_of_hits (by decide) (by decide) h)
    exact command .mclr (fields_of_zeroZ op zero)
  · obtain ⟨op, zero⟩ := zeroK_of_masked (op := 0x10) (masked_of_hits (by decide) (by decide) h)
    exact command (.noteon _ _ _) (fields_of_zeroK op zero)
  · obtain ⟨op, zero⟩ := zeroK_of_masked (op := 0x11) (masked_of_hits (by decide) (by decide) h)
    exact command (.noteoff _ _ _) (fields_of_zeroK op zero)
  · obtain ⟨op, zero⟩ := zeroK_of_masked (op := 0x12) (masked_of_hits (by decide) (by decide) h)
    exact command (.pbend _ _ _) (fields_of_zeroK op zero)
  · obtain ⟨op, zero⟩ := zeroR_of_masked (op := 0x20) (masked_of_hits (by decide) (by decide) h)
    exact command (.wrch _ _ _) (fields_of_zeroR op zero)
  · obtain ⟨op, zero⟩ := zeroR_zero_a_of_masked (op := 0x21) (masked_of_hits (by decide) (by decide) h)
    exact command (.wrg _ _) (fields_of_zeroR_zero_a op zero)
  · obtain ⟨op, zero⟩ := zeroX_of_masked (op := 0x30) (masked_of_hits (by decide) (by decide) h)
    exact command (.fxstart _ _ _) (fields_of_zeroX op zero)
  · obtain ⟨op, zero⟩ := zeroW_of_masked (op := 0x40) (masked_of_hits (by decide) (by decide) h)
    exact command (.wavptr _) (fields_of_zeroW op zero)
  · obtain ⟨op, zero⟩ := zeroW_of_masked (op := 0x41) (masked_of_hits (by decide) (by decide) h)
    exact command (.wavdat _ _) (fields_of_zeroW_samples op zero)
  · obtain ⟨op, zero⟩ := zeroR_of_masked (op := 0x42) (masked_of_hits (by decide) (by decide) h)
    exact command (.wdesc _ _ _) (fields_of_zeroR op zero)

theorem extract_eq_data_extract (w : CmdWord) {start len : Nat} (h : start + len ≤ 32) :
    w.extractLsb' start len = (fieldsOf w).data.extractLsb' start len := (BitVec.extractLsb'_extractLsb'_of_le h).symm

theorem free_of_dataK {w : CmdWord} {p v : BitVec 7} (data : (fieldsOf w).data = dataK p v) :
    v = w.extractLsb' 8 7 ∧ p = w.extractLsb' 0 7 := by
  rw [extract_eq_data_extract w (by decide), extract_eq_data_extract w (by decide), data, dataK_high, dataK_low]
  exact ⟨rfl, rfl⟩

theorem free_of_dataX {w : CmdWord} {depth : BitVec 7} (data : (fieldsOf w).data = dataX depth) : depth = w.extractLsb' 0 7 := by
  rw [extract_eq_data_extract w (by decide), data, dataX_low]

theorem free_of_dataW {w : CmdWord} {left right : BitVec 16} (data : (fieldsOf w).data = dataW left right) :
    right = w.extractLsb' 16 16 ∧ left = w.extractLsb' 0 16 := by
  rw [extract_eq_data_extract w (by decide), extract_eq_data_extract w (by decide), data, dataW_high, dataW_low]
  exact ⟨rfl, rfl⟩

theorem freeFields_of_decodeWord {w : CmdWord} {i : Instr} (h : decodeWord w = .instr i) : FreeFields w i := by
  have e : encodeFields i = fieldsOf w := decodeWord_eq_instr_iff.1 h
  have a : (encodeFields i).a = w.extractLsb' 48 8 := congrArg Fields.a e
  have b : (encodeFields i).b = w.extractLsb' 40 8 := congrArg Fields.b e
  have data : (encodeFields i).data = w.extractLsb' 0 32 := congrArg Fields.data e
  cases i with
  | nop => trivial
  | frame => trivial
  | rewind => trivial
  | mclr => trivial
  | noteon c p v => exact ⟨a, free_of_dataK data.symm⟩
  | noteoff c p v => exact ⟨a, free_of_dataK data.symm⟩
  | pbend c lsb msb => exact ⟨a, free_of_dataK data.symm⟩
  | wrch c idx word => exact ⟨a, b, data⟩
  | wrg idx word => exact ⟨b, data⟩
  | fxstart owner u depth => exact ⟨a, b, free_of_dataX data.symm⟩
  | wavptr addr => exact data
  | wavdat left right => exact free_of_dataW data.symm
  | wdesc d field word => exact ⟨a, b, data⟩

/-- Settles O2: a word that hits a row has the fields of the row's command, and a command's word hits the row of its mnemonic. -/
theorem opcodeMapDecidesTheCommand : Obligations.OpcodeMapDecidesTheCommand := by
  unfold Obligations.OpcodeMapDecidesTheCommand
  refine ⟨fun w r hr => ⟨decodeWord_of_hits hr, ?_⟩, fun w r q hr hq => row_eq_of_hits hr hq, fun w i => freeFields_of_decodeWord⟩
  rintro ⟨i, decoded, mnemonic⟩
  obtain ⟨q, hq, name, hits⟩ := hits_row_of_decodeWord decoded
  exact row_eq_of_mnemonic q hq r hr (name.trans mnemonic) ▸ hits

/-! ### A word that hits no row (R118) -/

theorem wordOp_of_no_row {α : Type} [Field α] [LinearOrder α] [FloorRing α] (P : Params α) {w : CmdWord} (s : State α)
    (h : ∀ r ∈ opcodeMap, ¬ r.hits w) : wordOp P w s = s := by
  unfold wordOp
  split
  · next i decoded =>
    obtain ⟨r, hr, -, hits⟩ := hits_row_of_decodeWord decoded
    exact absurd hits (h r hr)
  · rfl

/-- Settles O3: a word that hits no row does nothing, and the opcode of a word that hits one is the row's. -/
theorem reservedWordsExecuteAsNop : Obligations.ReservedWordsExecuteAsNop := by
  unfold Obligations.ReservedWordsExecuteAsNop
  refine ⟨fun w s rest noRow front => ?_, fun w undefined r hr hits => ?_, fun w r hr opcode differs q hq hits => ?_⟩
  · rw [step_eq_wordOp w rest front, wordOp_of_no_row _ _ noRow]
    rfl
  · exact undefined (opcode_of_hits hr hits ▸ opcode_mem_definedOpcodes r hr)
  · have same : q = r := row_eq_of_opcode q hq r hr ((opcode_of_hits hq hits).symm.trans opcode)
    exact differs (same ▸ hits)

end Sys2Proof
end

section
/-! O9: the index checks (30_encoding.md R112). Each command's operation answers the same state where one of its indices names nothing. -/

namespace Sys2Proof.Machine

set_option linter.unusedSectionVars false

variable {α : Type} [Field α] [LinearOrder α] [FloorRing α] {P : Params α}

/-! ### Registers and fields that are not there -/

theorem writeReg_eq_none (ch : Channel α) {idx : Nat} (data : Word) (h : 0x11 < idx) : ch.writeReg idx data = none := by
  unfold Channel.writeReg
  split
  case h_19 => rfl
  all_goals omega

theorem write_eq_self (ch : Channel α) {idx : BitVec 8} (data : Word) (h : 0x11 < idx.toNat) : ch.write idx data = ch := by
  rw [Channel.write, writeReg_eq_none ch data h]

theorem writeField_eq_none (x : Descriptor) {field : Nat} (data : Word) (h : 7 < field) : x.writeField field data = none := by
  unfold Descriptor.writeField
  split
  case h_9 => rfl
  all_goals omega

/-! ### A change that changes nothing -/

theorem onChannel_eq_self (s : State α) (c : Nat) {f : Channel α → Channel α} (h : ∀ ch, f ch = ch) : s.onChannel c f = s := by
  rcases onChannel_cases s c f with ⟨ch, there, e⟩ | ⟨-, e⟩
  · obtain ⟨_, rfl⟩ := List.getElem?_eq_some_iff.1 there
    rw [e, h, List.set_getElem_self]
  · exact e

theorem onDescriptor_eq_self (s : State α) (d : Nat) {f : Descriptor → Descriptor} (h : ∀ x, f x = x) : s.onDescriptor d f = s := by
  rcases onDescriptor_cases s d f with ⟨x, there, e⟩ | ⟨-, e⟩
  · obtain ⟨_, rfl⟩ := List.getElem?_eq_some_iff.1 there
    rw [e, h, List.set_getElem_self]
  · exact e

/-! ### Each command with an index that names nothing -/

theorem noteOnOp_of_no_channel {c : BitVec 8} (p v : BitVec 7) (s : State α) (h : P.hasChannel c = false) : noteOnOp P c p v s = s :=
  if_neg (of_decide_eq_false h)

theorem noteOffOp_of_no_channel {c : BitVec 8} (p v : BitVec 7) (s : State α) (h : P.hasChannel c = false) : noteOffOp P c p v s = s :=
  if_neg (of_decide_eq_false h)

theorem pitchBendOp_of_no_channel {c : BitVec 8} (lsb msb : BitVec 7) (s : State α) (h : P.hasChannel c = false) :
    pitchBendOp P c lsb msb s = s :=
  if_neg (of_decide_eq_false h)

theorem writeChannelOp_of_no_channel {c : BitVec 8} (idx : BitVec 8) (data : Word) (s : State α) (h : P.hasChannel c = false) :
    writeChannelOp P c idx data s = s :=
  if_neg (of_decide_eq_false h)

theorem writeChannelOp_of_no_register (c : BitVec 8) {idx : BitVec 8} (data : Word) (s : State α)
    (h : writableChannelIndex idx = false) : writeChannelOp P c idx data s = s := by
  unfold writeChannelOp
  split
  · exact onChannel_eq_self s c.toNat fun ch => write_eq_self ch data (not_le.1 (of_decide_eq_false h))
  · rfl

theorem fxStartOp_of_no_unit (owner : BitVec 8) {u : BitVec 8} (depth : BitVec 7) (s : State α) (h : P.hasUnit u = false) :
    fxStartOp P owner u depth s = s := by
  have absent : 2 < u.toNat ∨ u.toNat = 1 ∧ P.hasEcho = false := by
    simp only [Params.hasUnit, Bool.and_eq_false_iff, Bool.or_eq_false_iff, decide_eq_false_iff_not, not_le, not_not] at h
    exact h
  unfold fxStartOp
  rcases absent with high | echo
  · exact if_pos high
  · rw [if_pos echo, ite_self]

theorem fxStartOp_of_no_owner {owner : BitVec 8} (u : BitVec 8) (depth : BitVec 7) (s : State α) (h : P.hasOwner owner = false) :
    fxStartOp P owner u depth s = s := by
  have absent : P.topology = .priv ∧ P.nchan ≤ owner.toNat := by
    unfold Params.hasOwner at h
    cases topology : P.topology <;> rw [topology] at h
    case shared => cases h
    case priv => exact ⟨rfl, not_lt.1 (of_decide_eq_false h)⟩
  unfold fxStartOp
  rw [if_pos absent, ite_self, ite_self]

theorem writeDescriptorOp_of_no_descriptor {d : BitVec 8} (field : BitVec 8) (data : Word) (s : State α) (h : P.ndesc ≤ d.toNat) :
    writeDescriptorOp P d field data s = s :=
  if_neg h.not_gt

theorem writeDescriptorOp_of_no_field (d : BitVec 8) {field : BitVec 8} (data : Word) (s : State α) (h : 7 < field.toNat) :
    writeDescriptorOp P d field data s = s := by
  unfold writeDescriptorOp
  split
  · exact onDescriptor_eq_self s d.toNat fun x => by rw [writeField_eq_none x data h, Option.getD_none]
  · rfl

theorem commandOp_of_not_wellFormed {i : Instr} (s : State α) (h : i.wellFormed P = false) : commandOp P i s = s := by
  cases i with
  | nop => rfl
  | frame => cases h
  | rewind => cases h
  | mclr => cases h
  | noteon c p v => exact noteOnOp_of_no_channel p v s h
  | noteoff c p v => exact noteOffOp_of_no_channel p v s h
  | pbend c lsb msb => exact pitchBendOp_of_no_channel lsb msb s h
  | wrch c idx data =>
    rcases Bool.and_eq_false_iff.1 h with channel | register
    · exact writeChannelOp_of_no_channel idx data s channel
    · exact writeChannelOp_of_no_register c data s register
  | wrg idx data => exact if_neg (of_decide_eq_false h)
  | fxstart owner u depth =>
    rcases Bool.and_eq_false_iff.1 h with unit | noOwner
    · exact fxStartOp_of_no_unit owner depth s unit
    · exact fxStartOp_of_no_owner u depth s noOwner
  | wavptr addr => cases h
  | wavdat left right => cases h
  | wdesc d field data =>
    rcases Bool.and_eq_false_iff.1 h with descriptor | noField
    · exact writeDescriptorOp_of_no_descriptor field data s (not_lt.1 (of_decide_eq_false descriptor))
    · exact writeDescriptorOp_of_no_field d data s (not_le.1 (of_decide_eq_false noField))

/-- Settles O9, command by command. -/
theorem failedIndexChecksChangeNothing : Obligations.FailedIndexChecksChangeNothing := by
  unfold Obligations.FailedIndexChecksChangeNothing
  refine ⟨fun α _ _ _ _ P i s h => commandOp_of_not_wellFormed s h, fun i s h => ?_⟩
  rw [exec_eq_next_commandOp, commandOp_of_not_wellFormed s h]

end Sys2Proof.Machine
end

section
/-! O21: the pseudo-instruction DESC (30_encoding.md R121, 46_system_commands.md R318). Each of its WDESC writes one field of the same
descriptor, and the eight fields together are the whole descriptor. -/

namespace Sys2Proof.Machine

/-! ### The words DESC packs (10_state.md R53) -/

/-- R53: the word of field 0, ID. -/
def idWord (bank : BitVec 14) (program : BitVec 7) : Word := (0 : BitVec 10) ++ (bank ++ ((0 : BitVec 1) ++ program))

/-- R53: the word of field 1, RANGE. -/
def rangeWord (pfrom pto nom : BitVec 7) : Word := (0 : BitVec 9) ++ (nom ++ ((0 : BitVec 1) ++ (pto ++ ((0 : BitVec 1) ++ pfrom))))

theorem idWord_program (bank : BitVec 14) (program : BitVec 7) : (idWord bank program).extractLsb' 0 7 = program := by
  rw [idWord, BitVec.extractLsb'_append_eq_of_add_le (by decide), BitVec.extractLsb'_append_eq_of_add_le (by decide),
    BitVec.extractLsb'_append_eq_right]

theorem idWord_bank (bank : BitVec 14) (program : BitVec 7) : (idWord bank program).extractLsb' 8 14 = bank := by
  rw [idWord, BitVec.extractLsb'_append_eq_of_add_le (by decide)]
  exact BitVec.extractLsb'_append_eq_left

theorem rangeWord_from (pfrom pto nom : BitVec 7) : (rangeWord pfrom pto nom).extractLsb' 0 7 = pfrom := by
  rw [rangeWord, BitVec.extractLsb'_append_eq_of_add_le (by decide), BitVec.extractLsb'_append_eq_of_add_le (by decide),
    BitVec.extractLsb'_append_eq_of_add_le (by decide), BitVec.extractLsb'_append_eq_of_add_le (by decide),
    BitVec.extractLsb'_append_eq_right]

theorem rangeWord_to (pfrom pto nom : BitVec 7) : (rangeWord pfrom pto nom).extractLsb' 8 7 = pto := by
  rw [rangeWord, BitVec.extractLsb'_append_eq_of_add_le (by decide), BitVec.extractLsb'_append_eq_of_add_le (by decide),
    BitVec.extractLsb'_append_eq_of_add_le (by decide)]
  exact BitVec.extractLsb'_append_eq_left

theorem rangeWord_nominal (pfrom pto nom : BitVec 7) : (rangeWord pfrom pto nom).extractLsb' 16 7 = nom := by
  rw [rangeWord, BitVec.extractLsb'_append_eq_of_add_le (by decide)]
  exact BitVec.extractLsb'_append_eq_left

/-! ### A run of WDESC on one descriptor -/

/-- The state with descriptor `d` set to `x`. -/
def State.withDescriptor (s : State) (d : Nat) (x : Descriptor) : State := { s with wd := s.wd.set d x }

theorem eq_withDescriptor {s : State} {d : Nat} (h : d < s.wd.length) : s = s.withDescriptor d s.wd[d] := by
  rw [State.withDescriptor, List.set_getElem_self]

/-- What a WDESC of a field and its data makes of a descriptor (R317). -/
def Descriptor.written (x : Descriptor) (f : BitVec 8 × Word) : Descriptor := (x.writeField f.1.toNat f.2).getD x

theorem exec_wdesc_withDescriptor {s : State} (h : s.wd.length = 256) (d : BitVec 8) (x : Descriptor) (f : BitVec 8 × Word) :
    exec (.wdesc d f.1 f.2) (s.withDescriptor d.toNat x) = .next (s.withDescriptor d.toNat (x.written f)) := by
  have inTable : d.toNat < Config.params.ndesc := d.isLt
  have there : (s.withDescriptor d.toNat x).wd[d.toNat]? = some x := List.getElem?_set_eq_of_lt _ (h ▸ d.isLt)
  rw [exec_eq_next_commandOp, commandOp, writeDescriptorOp, if_pos inTable, State.onDescriptor, there]
  simp only [State.withDescriptor, List.set_set, Descriptor.written]

theorem runCommands_wdesc_withDescriptor {s : State} (h : s.wd.length = 256) (d : BitVec 8) (fs : List (BitVec 8 × Word))
    (x : Descriptor) :
    runCommands (fs.map fun f => .wdesc d f.1 f.2) (s.withDescriptor d.toNat x)
      = .next (s.withDescriptor d.toNat (fs.foldl Descriptor.written x)) := by
  induction fs generalizing x with
  | nil => rfl
  | cons f fs ih =>
    rw [List.map_cons, runCommands, exec_wdesc_withDescriptor h]
    exact ih (x.written f)

/-! ### The eight WDESC of DESC -/

section
variable (bank : BitVec 14) (program pfrom pto nom : BitVec 7) (flags base len freq ls le : Word)

/-- R121: the fields DESC writes, in its order, the flags last. -/
def descFields : List (BitVec 8 × Word) :=
  [(0, idWord bank program), (1, rangeWord pfrom pto nom), (3, base), (4, len), (5, freq), (6, ls), (7, le), (2, flags)]

/-- The eight fields are the whole descriptor: nothing is left of the one before. -/
theorem descFields_written (x : Descriptor) :
    (descFields bank program pfrom pto nom flags base len freq ls le).foldl Descriptor.written x =
      { program := program, bank := bank, pitchFrom := pfrom, pitchTo := pto, nomPitch := nom
        valid := flags.extractLsb' 0 1, loop := flags.extractLsb' 1 1, alwaysSustain := flags.extractLsb' 2 1
        baseAddr := base, length := len, baseFreq := freq, loopStart := ls, loopEnd := le } := by
  simp only [descFields, List.foldl_cons, List.foldl_nil, Descriptor.written, Descriptor.writeField, BitVec.reduceToNat,
    Option.getD_some, idWord_program, idWord_bank, rangeWord_from, rangeWord_to, rangeWord_nominal, BitVec.ofNat_eq_ofNat]

end

/-- Settles O21: the expansion is a run of WDESC on descriptor `d`, of the fields of DESC. -/
theorem descWritesAWholeDescriptor : Obligations.DescWritesAWholeDescriptor := by
  unfold Obligations.DescWritesAWholeDescriptor
  intro d bank program pfrom pto nom flags base len freq ls le s h
  have run := runCommands_wdesc_withDescriptor h d
    (descFields bank program pfrom pto nom flags base len (roundWord (freq * 65536)) (roundWord (ls * 256)) (roundWord (le * 256)))
    (s.wd[d.toNat]'(h ▸ d.isLt))
  rw [← eq_withDescriptor, descFields_written] at run
  exact run

end Sys2Proof.Machine
end

section
/-! O41, O37: what one frame does to a voice (40_voice.md R130 to R154). A voice that is not exhausted goes on by the one equation of
`eq_moveOn_of_advance`; each field is read off it, and in exact arithmetic each variant has its output in closed form. -/

namespace Sys2Proof.Machine

set_option linter.unusedSectionVars false

variable {α : Type} [Field α] [LinearOrder α] [FloorRing α] {P : Params α}

/-! ### The three ways a voice is exhausted (R132) -/

theorem terminated_iff (v : Voice α) :
    v.terminated P = true ↔ (v.rel = true ∧ v.sus = false ∧ v.relLeft = 0)
      ∨ (v.tone = .piano ∧ P.pianoDur v.key.toNat ≤ v.age)
      ∨ ∃ p, v.tone = .sampled p ∧ (p.wLen.toNat : Int) ≤ ⌊p.pos⌋ + 1 := by
  unfold Voice.terminated
  cases v.tone <;> simp [and_assoc]

/-- Settles O41, by the three clauses of `terminated`. -/
theorem silenceIsExhaustion : Obligations.SilenceIsExhaustion := by
  unfold Obligations.SilenceIsExhaustion
  intro α _ _ _ _ P mem ch v
  rw [advance_eq_none, terminated_iff]

/-! ### The fields a frame leaves alone, counts on, or moves by the voice's own steps (R131, R150, R152, R154) -/

section
variable {mem : WaveMem} {ch : Channel α} {v v' : Voice α} {o : Stereo α} (e : v.advance P mem ch = some (o, v'))
include e

theorem not_terminated_of_advance : v.terminated P = false := by
  by_contra ended
  rw [(advance_eq_none P mem ch v).2 (by simpa using ended)] at e
  cases e

theorem output_of_advance : o = (v.output P mem).1 := by
  rw [advance_eq_some P mem ch v (not_terminated_of_advance e)] at e
  cases e
  rfl

/-- R23, R24: what only commands write. -/
theorem advance_keeps :
    v'.key = v.key ∧ v'.vel = v.vel ∧ v'.bend = v.bend ∧ v'.rel = v.rel ∧ v'.relTotal = v.relTotal ∧ v'.sus = v.sus
      ∧ v'.relOnce = v.relOnce ∧ v'.soft = v.soft ∧ v'.portaStep = v.portaStep := by
  rw [eq_moveOn_of_advance e]
  simp

theorem age_of_advance : v'.age = min (v.age + 1) (2 ^ 32 - 1) := by
  rw [eq_moveOn_of_advance e, moveOn_age, ageSucc]

theorem relLeft_of_advance : v'.relLeft = if v.rel = true ∧ v.sus = false then v.relLeft - 1 else v.relLeft := by
  rw [eq_moveOn_of_advance e, moveOn_relLeft]
  simp

theorem vibrato_of_advance : v'.vibM = (v.vibratoStep P ch).vibM ∧ v'.vibDir = (v.vibratoStep P ch).vibDir := by
  obtain ⟨value, direction⟩ := vibratoStep_congr P ch { v with tone := (v.output P mem).2 } v rfl rfl
  rw [eq_moveOn_of_advance e, (moveOn_vibrato ..).1, (moveOn_vibrato ..).2]
  exact ⟨value, direction⟩

theorem glide_of_advance :
    v'.portaOff = (v.portamentoStep P.num).portaOff ∧ v'.portaOn = (v.portamentoStep P.num).portaOn := by
  obtain ⟨offset, on⟩ := portamentoStep_congr P.num { v with tone := (v.output P mem).2 } v rfl rfl rfl
  rw [eq_moveOn_of_advance e, (moveOn_glide ..).1, (moveOn_glide ..).2]
  exact ⟨offset, on⟩

/-! ### Tone and phase of each variant (R134, R140, R148) -/

theorem tone_of_advance_piano (h : v.tone = .piano) : v'.tone = .piano := by
  rw [eq_moveOn_of_advance e, moveOn_tone]
  simp [Voice.advanceOscillator, Voice.output, h]

theorem tone_of_advance_square {f : VoiceFilter α} (h : v.tone = .square f) :
    v'.tone = .square (f.filtered P.num (squareWave P v.phase)).2 := by
  rw [eq_moveOn_of_advance e, moveOn_tone]
  simp [Voice.advanceOscillator, Voice.output, h]

theorem tone_of_advance_triangle {f : VoiceFilter α} (h : v.tone = .triangle f) :
    v'.tone = .triangle (f.filtered P.num (triangleWave P v.phase)).2 := by
  rw [eq_moveOn_of_advance e, moveOn_tone]
  simp [Voice.advanceOscillator, Voice.output, h]

theorem tone_of_advance_sampled {p : SamplePlay α} (h : v.tone = .sampled p) :
    v'.tone = .sampled (p.advance P.num (v.frequency P.num)) := by
  rw [eq_moveOn_of_advance e, moveOn_tone]
  simp [Voice.advanceOscillator, Voice.output, h]

theorem variant_of_advance : v'.tone.variant = v.tone.variant := by
  cases h : v.tone with
  | piano => rw [tone_of_advance_piano e h]
  | square f => rw [tone_of_advance_square e h]; rfl
  | triangle f => rw [tone_of_advance_triangle e h]; rfl
  | sampled p => rw [tone_of_advance_sampled e h]; rfl

theorem phase_of_advance_sampled {p : SamplePlay α} (h : v.tone = .sampled p) : v'.phase = v.phase := by
  rw [eq_moveOn_of_advance e, moveOn_phase]
  simp [Voice.advanceOscillator, Voice.output, h]

/-- R134: the phase of any other variant. -/
theorem phase_of_advance (h : v.tone.variant ≠ .sampled) : v'.phase = nextPhase P v.phase (v.frequency P.num) := by
  rw [eq_moveOn_of_advance e, moveOn_phase]
  cases t : v.tone with
  | piano => simp [Voice.advanceOscillator, Voice.output, t]
  | square f => simp [Voice.advanceOscillator, Voice.output, t]
  | triangle f => simp [Voice.advanceOscillator, Voice.output, t]
  | sampled p => exact absurd (congrArg Tone.variant t) h

end

/-- The filters of a voice keep their coefficients (R144, R145). -/
theorem filtered_coefficients (N : Num α) (f : VoiceFilter α) (x : α) :
    (f.filtered N x).2.lpA = f.lpA ∧ (f.filtered N x).2.bpA = f.bpA ∧ (f.filtered N x).2.bpB = f.bpB ∧ (f.filtered N x).2.bpC = f.bpC :=
  ⟨rfl, rfl, rfl, rfl⟩

/-- R148: of the sample state only the position moves. -/
theorem sample_advance_eq (N : Num α) (p : SamplePlay α) (f : α) : ∃ pos, p.advance N f = { p with pos := pos } := by
  unfold SamplePlay.advance
  dsimp only
  split <;> exact ⟨_, rfl⟩

/-! ### Outputs, filters and phase in exact arithmetic (R134 to R137, R140, R146) -/

section
variable (hE : ExactNum P.num)
include hE

theorem releaseGain_exact (v : Voice α) : v.releaseGain P.num = v.fade := by
  cases h : v.rel <;> simp [Voice.releaseGain, Voice.fade, h, div_exact hE, natQ]

/-- R131 step 4: the gains, in their order, applied to a level and a signal. -/
theorem prod_gains_exact (v : Voice α) (level shape wave : α) :
    P.num.prod level (v.gains P.num shape ++ [wave]) = level * v.level * shape * wave := by
  simp only [Num.prod, Voice.gains, List.cons_append, List.nil_append, List.foldl_cons, List.foldl_nil, mul_exact hE,
    releaseGain_exact hE, Voice.velGain, per127, div_exact hE, natQ, Voice.softGain, Voice.level]
  ring

theorem filtered_exact (f : VoiceFilter α) (x : α) : f.filtered P.num x = ((f.afterInput x).lpY1, f.afterInput x) := by
  simp only [VoiceFilter.filtered, VoiceFilter.bandpass, VoiceFilter.lowpass, bpStep, lpStep, add_exact hE, sub_exact hE,
    mul_exact hE, VoiceFilter.afterInput, VoiceFilter.resonance]

theorem nextPhase_exact (phase f : α) : nextPhase P phase f = Int.fract (phase + f / P.fs) := by
  simp only [nextPhase, frac_exact hE, add_exact hE, div_exact hE, natQ, Int.fract]

theorem output_piano_exact (mem : WaveMem) {v : Voice α} (h : v.tone = .piano) :
    (v.output P mem).1.l = P.peakPiano * v.level * v.pianoEnv P * pianoWave P v.phase
      ∧ (v.output P mem).1.r = (v.output P mem).1.l := by
  simp only [Voice.output, h, prod_gains_exact hE, and_self]

theorem output_square_exact (mem : WaveMem) {v : Voice α} {f : VoiceFilter α} (h : v.tone = .square f) :
    (v.output P mem).1.l = P.peakSquare * v.level * attackGain P v.age * (f.afterInput (squareWave P v.phase)).lpY1
      ∧ (v.output P mem).1.r = (v.output P mem).1.l := by
  simp only [Voice.output, h, prod_gains_exact hE, filtered_exact hE, and_self]

theorem output_triangle_exact (mem : WaveMem) {v : Voice α} {f : VoiceFilter α} (h : v.tone = .triangle f) :
    (v.output P mem).1.l = P.peakTriangle * v.level * attackGain P v.age * (f.afterInput (triangleWave P v.phase)).lpY1
      ∧ (v.output P mem).1.r = (v.output P mem).1.l := by
  simp only [Voice.output, h, prod_gains_exact hE, filtered_exact hE, and_self]

theorem output_sampled_exact (mem : WaveMem) {v : Voice α} {p : SamplePlay α} (h : v.tone = .sampled p) :
    (v.output P mem).1 = ⟨(p.read P mem).l * v.level, (p.read P mem).r * v.level⟩ := by
  simp only [Voice.output, h, Num.prod, List.foldl_cons, List.foldl_nil, mul_exact hE, releaseGain_exact hE, Voice.velGain, per127,
    div_exact hE, natQ, Voice.softGain, Voice.level]

end

/-- Settles O37, field by field. -/
theorem advanceMovesAVoiceOn : Obligations.AdvanceMovesAVoiceOn := by
  unfold Obligations.AdvanceMovesAVoiceOn
  intro α _ _ _ _ P mem ch v v' o e
  obtain ⟨key, vel, bend, rel, relTotal, sus, relOnce, soft, portaStep⟩ := advance_keeps e
  obtain ⟨vibM, vibDir⟩ := vibrato_of_advance e
  obtain ⟨portaOff, portaOn⟩ := glide_of_advance e
  refine ⟨key, vel, bend, rel, relTotal, sus, relOnce, soft, portaStep, variant_of_advance e, ?coefficients, ?sample,
    age_of_advance e, relLeft_of_advance e, vibM, vibDir, portaOff, portaOn, ?noGlide, ?exact⟩
  case coefficients =>
    rintro f (h | h)
    · exact ⟨_, .inl (tone_of_advance_square e h), filtered_coefficients ..⟩
    · exact ⟨_, .inr (tone_of_advance_triangle e h), filtered_coefficients ..⟩
  case sample =>
    intro p h
    obtain ⟨pos, moved⟩ := sample_advance_eq P.num p (v.frequency P.num)
    exact ⟨phase_of_advance_sampled e h, pos, moved ▸ tone_of_advance_sampled e h⟩
  case noGlide =>
    intro off
    rw [portamentoStep_off _ _ off] at portaOff portaOn
    exact ⟨portaOff, portaOn.trans off⟩
  case exact =>
    intro hE
    rw [output_of_advance e]
    refine ⟨fun h => (phase_of_advance e h).trans (nextPhase_exact hE ..), fun h => output_piano_exact hE mem h, fun f h => ?_,
      fun f h => ?_, fun p h => ⟨tone_of_advance_sampled e h, output_sampled_exact hE mem h⟩⟩
    · exact ⟨by rw [tone_of_advance_square e h, filtered_exact hE], output_square_exact hE mem h⟩
    · exact ⟨by rw [tone_of_advance_triangle e h, filtered_exact hE], output_triangle_exact hE mem h⟩

end Sys2Proof.Machine
end

section
/-! O42, O43, O44: a voice over many frames (40_voice.md R131). A property indexed by the number of frames that each frame carries on holds
after every run; where it also keeps the voice from being exhausted, the run exists. -/

namespace Sys2Proof.Machine

set_option linter.unusedSectionVars false

variable {α : Type} [Field α] [LinearOrder α] [FloorRing α] {P : Params α}

/-! ### Runs of frames -/

section
variable {mem : WaveMem} {ch : Channel α} {Q : Nat → Voice α → Prop} {v : Voice α}

theorem afterFrames_succ_left (k : Nat) (v : Voice α) :
    v.afterFrames P mem ch (k + 1) = (v.advance P mem ch).bind fun x => x.2.afterFrames P mem ch k := by
  cases h : v.advance P mem ch <;> simp [Voice.afterFrames, h]

/-- The last frame of a run, where the definition shows the first. -/
theorem afterFrames_succ (k : Nat) (v : Voice α) :
    v.afterFrames P mem ch (k + 1) = (v.afterFrames P mem ch k).bind fun w => (w.advance P mem ch).map (·.2) := by
  induction k generalizing v with
  | zero =>
    rw [afterFrames_succ_left]
    cases h : v.advance P mem ch <;> simp [Voice.afterFrames, h]
  | succ k ih =>
    rw [afterFrames_succ_left, afterFrames_succ_left, Option.bind_assoc]
    exact congrArg _ (funext fun x => ih x.2)

theorem forall_afterFrames (start : Q 0 v)
    (carried : ∀ k w o w', Q k w → w.advance P mem ch = some (o, w') → Q (k + 1) w') {k : Nat} {w : Voice α}
    (h : v.afterFrames P mem ch k = some w) : Q k w := by
  induction k generalizing w with
  | zero => cases h; exact start
  | succ k ih =>
    rw [afterFrames_succ, Option.bind_eq_some_iff] at h
    obtain ⟨u, run, last⟩ := h
    obtain ⟨⟨o, w'⟩, frame, rfl⟩ := Option.map_eq_some_iff.1 last
    exact carried k u o w' (ih run) frame

theorem exists_afterFrames {n : Nat} (start : Q 0 v) (live : ∀ k < n, ∀ w, Q k w → w.terminated P = false)
    (carried : ∀ k w o w', Q k w → w.advance P mem ch = some (o, w') → Q (k + 1) w') {k : Nat} (hk : k ≤ n) :
    ∃ w, v.afterFrames P mem ch k = some w ∧ Q k w := by
  induction k with
  | zero => exact ⟨v, rfl, start⟩
  | succ k ih =>
    obtain ⟨u, run, hu⟩ := ih (by omega)
    have frame := advance_eq_some P mem ch u (live k (by omega) u hu)
    exact ⟨_, by rw [afterFrames_succ, run, Option.bind_some, frame, Option.map_some], carried k u _ _ hu frame⟩

/-- The same where no frame exhausts the voice. -/
theorem afterFrames_ne_none (start : Q 0 v) (live : ∀ k w, Q k w → w.terminated P = false)
    (carried : ∀ k w o w', Q k w → w.advance P mem ch = some (o, w') → Q (k + 1) w') (k : Nat) : v.afterFrames P mem ch k ≠ none := by
  obtain ⟨w, run, -⟩ := exists_afterFrames start (fun j _ => live j) carried (le_refl k)
  rw [run]
  exact Option.some_ne_none w

theorem advance_ne_none {w : Voice α} (h : w.terminated P = false) : w.advance P mem ch ≠ none := by
  rw [ne_eq, advance_eq_none, h]
  exact Bool.false_ne_true

end

/-! ### Square and Triangle voices: only the release budget can end them (R132) -/

/-- The variants with filters and no budget but that of the release (R132). -/
def Tone.hasFilters (t : Tone α) : Prop := t.variant = .square ∨ t.variant = .triangle

theorem terminated_iff_of_hasFilters {v : Voice α} (h : v.tone.hasFilters) :
    v.terminated P = true ↔ v.rel = true ∧ v.sus = false ∧ v.relLeft = 0 := by
  rw [terminated_iff]
  refine or_iff_left ?_
  rintro (⟨piano, -⟩ | ⟨p, sampled, -⟩)
  · simp [Tone.hasFilters, piano, Tone.variant] at h
  · simp [Tone.hasFilters, sampled, Tone.variant] at h

theorem hasFilters_of_advance {mem : WaveMem} {ch : Channel α} {v v' : Voice α} {o : Stereo α}
    (e : v.advance P mem ch = some (o, v')) (h : v.tone.hasFilters) : v'.tone.hasFilters := by
  unfold Tone.hasFilters
  rwa [variant_of_advance e]

/-- A released Square or Triangle voice with `left` frames of its budget `total`, held by the pedal or not (R135, R153, R154). -/
structure Releasing (sus : Bool) (total left : Nat) (v : Voice α) : Prop where
  tone : v.tone.hasFilters
  rel : v.rel = true
  sus : v.sus = sus
  total : v.relTotal = total
  left : v.relLeft = left

section
variable {sus : Bool} {total left : Nat} {v : Voice α} (h : Releasing sus total left v)
include h

/-- R154: the budget runs down while the pedal does not hold the voice. -/
theorem Releasing.advance {mem : WaveMem} {ch : Channel α} {v' : Voice α} {o : Stereo α} (e : v.advance P mem ch = some (o, v')) :
    Releasing sus total (if sus then left else left - 1) v' := by
  obtain ⟨-, -, -, rel, relTotal, pedal, -⟩ := advance_keeps e
  refine ⟨hasFilters_of_advance e h.tone, rel.trans h.rel, pedal.trans h.sus, relTotal.trans h.total, ?_⟩
  rw [relLeft_of_advance e, h.rel, h.sus, h.left]
  cases sus <;> rfl

theorem Releasing.terminated_iff : v.terminated P = true ↔ sus = false ∧ left = 0 := by
  rw [terminated_iff_of_hasFilters h.tone, h.rel, h.sus, h.left, eq_self, true_and]

theorem Releasing.terminated_eq_false (going : sus = true ∨ 0 < left) : v.terminated P = false := by
  rw [← Bool.not_eq_true, h.terminated_iff]
  rintro ⟨rfl, rfl⟩
  simp at going

theorem Releasing.fade_eq : v.fade = if left = total then 1 else (left : α) / total := by
  simp [Voice.fade, h.rel, h.left, h.total]

end

/-- Settles O42: a frame takes one from the budget of a voice that is let go, and leaves that of a held one. -/
theorem releaseIsALinearRamp : Obligations.ReleaseIsALinearRamp := by
  unfold Obligations.ReleaseIsALinearRamp
  intro α _ _ _ _ P hE
  refine ⟨releaseGain_exact hE, fun mem ch v tone rel whole => ⟨fun released => ?_, fun held k => ?_⟩⟩
  · have start : Releasing false v.relTotal (v.relTotal - 0) v := ⟨tone, rel, released, rfl, whole⟩
    have run {k : Nat} (hk : k ≤ v.relTotal) := exists_afterFrames (P := P) (mem := mem) (ch := ch)
      (Q := fun k => Releasing false v.relTotal (v.relTotal - k)) start
      (fun k hk w h => h.terminated_eq_false (.inr (by omega))) (fun k w o w' h e => h.advance e) hk
    constructor
    · intro k hk
      obtain ⟨w, after, h⟩ := run hk.le
      refine ⟨w, after, advance_ne_none (h.terminated_eq_false (.inr (by omega))), ?_⟩
      have total_ne : (v.relTotal : α) ≠ 0 := by exact_mod_cast (by omega : v.relTotal ≠ 0)
      rw [releaseGain_exact hE, h.fade_eq]
      split
      · next full => rw [full, div_self total_ne]
      · rfl
    · obtain ⟨w, after, h⟩ := run le_rfl
      exact ⟨w, after, (advance_eq_none ..).2 (h.terminated_iff.2 ⟨rfl, by omega⟩)⟩
  · obtain ⟨w, after, h⟩ := exists_afterFrames (P := P) (mem := mem) (ch := ch) (Q := fun _ => Releasing true v.relTotal v.relTotal)
      ⟨tone, rel, held, rfl, whole⟩ (fun _ _ w h => h.terminated_eq_false (.inl rfl)) (fun _ w o w' h e => h.advance e) (le_refl k)
    exact ⟨w, after, by rw [releaseGain_exact hE, h.fade_eq, if_pos rfl], h.left⟩

/-! ### Voices that are not released (R132, R139) -/

/-- A Piano voice not released, at an age (R139, R154). -/
structure Ringing (key : BitVec 7) (age : Nat) (v : Voice α) : Prop where
  tone : v.tone = .piano
  rel : v.rel = false
  key : v.key = key
  age : v.age = age

theorem Ringing.terminated_iff {key : BitVec 7} {age : Nat} {v : Voice α} (h : Ringing key age v) :
    v.terminated P = true ↔ P.pianoDur key.toNat ≤ age := by
  rw [Machine.terminated_iff, h.tone, h.rel, h.key, h.age]
  simp

/-- The age counts the frames: it stays far below the value it saturates at (R154). -/
theorem Ringing.advance {N : Num α} {mem : WaveMem} {ch : Channel α} {key : BitVec 7} {age : Nat} {v v' : Voice α} {o : Stereo α}
    (h : Ringing key age v) (e : v.advance (Config.defaults N) mem ch = some (o, v')) : Ringing key (age + 1) v' := by
  obtain ⟨sameKey, -, -, rel, -⟩ := advance_keeps e
  refine ⟨tone_of_advance_piano e h.tone, rel.trans h.rel, sameKey.trans h.key, ?_⟩
  have below : age < 44100 * (143 - key.toNat) / 16 := by
    by_contra past
    have ended := (h.terminated_iff (P := Config.defaults N)).2 (not_lt.1 past)
    rw [not_terminated_of_advance e] at ended
    cases ended
  rw [age_of_advance e, h.age]
  omega

/-- Settles O44: the age of a Piano voice counts its frames, and nothing ends an unreleased Square or Triangle voice. -/
theorem unreleasedVoicesPlayOn : Obligations.UnreleasedVoicesPlayOn := by
  unfold Obligations.UnreleasedVoicesPlayOn
  intro α _ _ _ _
  constructor
  · intro N mem ch v tone rel age
    have live {k : Nat} (hk : k < 44100 * (143 - v.key.toNat) / 16) {w : Voice α} (h : Ringing v.key k w) :
        w.terminated (Config.defaults N) = false := by
      rw [← Bool.not_eq_true, h.terminated_iff]
      exact not_le.2 hk
    have run {k : Nat} (hk : k ≤ 44100 * (143 - v.key.toNat) / 16) := exists_afterFrames (mem := mem) (ch := ch) (Q := Ringing v.key)
      ⟨tone, rel, rfl, age⟩ (fun k hk w h => live hk h) (fun k w o w' h e => h.advance e) hk
    constructor
    · intro k hk
      obtain ⟨w, after, h⟩ := run hk.le
      exact ⟨w, after, h.age, advance_ne_none (live hk h)⟩
    · obtain ⟨w, after, h⟩ := run le_rfl
      exact ⟨w, after, (advance_eq_none ..).2 (h.terminated_iff.2 le_rfl)⟩
  · intro P mem ch v tone rel k
    refine afterFrames_ne_none (Q := fun _ w => w.tone.hasFilters ∧ w.rel = false) ⟨tone, rel⟩ (fun _ w h => ?_)
      (fun _ w o w' h e => ?_) k
    · rw [← Bool.not_eq_true, terminated_iff_of_hasFilters h.1, h.2]
      simp
    · obtain ⟨-, -, -, sameRel, -⟩ := advance_keeps e
      exact ⟨hasFilters_of_advance e h.1, sameRel.trans h.2⟩

/-! ### The glide (R152) -/

section
variable {N : Num α}

/-- R152: a glide whose next offset is not 0 and has the sign of the last goes on. -/
theorem portamentoStep_going {v : Voice α} (on : v.portaOn = true) (ne_zero : N.sub v.portaOff v.portaStep ≠ 0)
    (sign : 0 < N.sub v.portaOff v.portaStep ↔ 0 < v.portaOff) :
    v.portamentoStep N = { v with portaOff := N.sub v.portaOff v.portaStep } := by
  simp [Voice.portamentoStep, on, ne_zero, sign]

/-- R152: a glide whose next offset is 0 ends. -/
theorem portamentoStep_ending {v : Voice α} (on : v.portaOn = true) (zero : N.sub v.portaOff v.portaStep = 0) :
    v.portamentoStep N = { v with portaOff := 0, portaOn := false } := by
  simp [Voice.portamentoStep, on, zero]

end

section
variable [IsStrictOrderedRing α]

/-- The offset of a glide of `n` steps from `off`, after `k` of them. -/
def glideOffset (off : α) (n k : Nat) : α := off * ((n - k : Nat) : α) / n

/-- A voice `k` frames into a glide of `n` steps from `off`. -/
structure GlidingAt (off : α) (n k : Nat) (v : Voice α) : Prop where
  step : v.portaStep = off / n
  offset : v.portaOff = glideOffset off n k
  on : v.portaOn = true ↔ k < n

theorem glideOffset_zero (off : α) {n : Nat} (hn : 0 < n) : glideOffset off n 0 = off := by
  have : (n : α) ≠ 0 := by exact_mod_cast hn.ne'
  rw [glideOffset, Nat.sub_zero]
  field_simp

theorem glideOffset_succ (off : α) {n k : Nat} (hk : k < n) : glideOffset off n k - off / n = glideOffset off n (k + 1) := by
  have split : n - k = n - (k + 1) + 1 := by omega
  rw [glideOffset, glideOffset, split]
  push_cast
  ring

theorem glideOffset_of_le (off : α) {n k : Nat} (hk : n ≤ k) : glideOffset off n k = 0 := by
  rw [glideOffset, Nat.sub_eq_zero_of_le hk]
  simp

/-- Before its end a glide has the sign it started with. -/
theorem glideOffset_pos_iff (off : α) {n k : Nat} (hk : k < n) : 0 < glideOffset off n k ↔ 0 < off := by
  have left : (0 : α) < ((n - k : Nat) : α) := by exact_mod_cast Nat.sub_pos_of_lt hk
  have total : (0 : α) < n := by exact_mod_cast Nat.zero_lt_of_lt hk
  rw [glideOffset, div_pos_iff_of_pos_right total, mul_pos_iff_of_pos_right left]

theorem glideOffset_ne_zero {off : α} (hoff : off ≠ 0) {n k : Nat} (hk : k < n) : glideOffset off n k ≠ 0 := by
  have left : ((n - k : Nat) : α) ≠ 0 := by exact_mod_cast (Nat.sub_pos_of_lt hk).ne'
  have total : (n : α) ≠ 0 := by exact_mod_cast (Nat.zero_lt_of_lt hk).ne'
  exact div_ne_zero (mul_ne_zero hoff left) total

/-- R152: the step takes a glide on, and ends it where the offset comes to 0. -/
theorem GlidingAt.portamentoStep {N : Num α} (hE : ExactNum N) {off : α} (hoff : off ≠ 0) {n k : Nat} {v : Voice α}
    (h : GlidingAt off n k v) : GlidingAt off n (k + 1) (v.portamentoStep N) := by
  by_cases hk : k < n
  · have moved : N.sub v.portaOff v.portaStep = glideOffset off n (k + 1) := by
      rw [sub_exact hE, h.offset, h.step, glideOffset_succ off hk]
    by_cases last : k + 1 < n
    · have sign : 0 < N.sub v.portaOff v.portaStep ↔ 0 < v.portaOff := by
        rw [moved, h.offset, glideOffset_pos_iff off last, glideOffset_pos_iff off hk]
      rw [portamentoStep_going (h.on.2 hk) (moved ▸ glideOffset_ne_zero hoff last) sign]
      exact ⟨h.step, moved, iff_of_true (h.on.2 hk) last⟩
    · have zero := glideOffset_of_le off (not_lt.1 last)
      rw [portamentoStep_ending (h.on.2 hk) (moved.trans zero)]
      exact ⟨h.step, zero.symm, iff_of_false Bool.false_ne_true last⟩
  · have ended : glideOffset off n k = glideOffset off n (k + 1) := by
      rw [glideOffset_of_le off (not_lt.1 hk), glideOffset_of_le off (by omega)]
    rw [portamentoStep_off _ _ (by simpa [hk] using h.on)]
    exact ⟨h.step, h.offset.trans ended, h.on.trans (by omega)⟩

theorem GlidingAt.advance (hE : ExactNum P.num) {mem : WaveMem} {ch : Channel α} {off : α} (hoff : off ≠ 0) {n k : Nat} {v v' : Voice α}
    {o : Stereo α} (h : GlidingAt off n k v) (e : v.advance P mem ch = some (o, v')) : GlidingAt off n (k + 1) v' := by
  obtain ⟨-, -, -, -, -, -, -, -, sameStep⟩ := advance_keeps e
  obtain ⟨offset, on⟩ := glide_of_advance e
  have moved := h.portamentoStep hE hoff
  exact ⟨sameStep.trans h.step, offset.trans moved.offset, on ▸ moved.on⟩

end

/-- Settles O43, frame by frame. -/
theorem glideEndsAfterItsFrames : Obligations.GlideEndsAfterItsFrames := by
  unfold Obligations.GlideEndsAfterItsFrames
  intro α _ _ _ _ P mem ch v n hE on ne_zero hn step k w run
  have start : GlidingAt v.portaOff n 0 v := ⟨step, (glideOffset_zero _ hn).symm, iff_of_true on hn⟩
  have h : GlidingAt v.portaOff n k w := forall_afterFrames start (fun _ _ _ _ h e => h.advance hE ne_zero e) run
  refine ⟨?_, h.on⟩
  rw [h.offset]
  split
  · rfl
  · next past => exact glideOffset_of_le _ (not_lt.1 past)

end Sys2Proof.Machine
end

section
/-! O45, O46, O50: the read position of a Sampled voice (40_voice.md R147, R148). In exact arithmetic the position moves by the frequency
ratio, and the loop wrap takes it back by whole spans. -/

namespace Sys2Proof.Machine

set_option linter.unusedSectionVars false

variable {α : Type} [Field α] [LinearOrder α] [IsStrictOrderedRing α] [FloorRing α]

/-! ### The position (R148) -/

/-- R148: the position moved on by the frequency ratio, before any wrap. -/
def SamplePlay.moved (p : SamplePlay α) (f : α) : α := p.pos + f / p.wFreq

/-- R148: a position that has reached the loop end, brought back to the loop start by whole spans. -/
def SamplePlay.wrapped (p : SamplePlay α) (x : α) : α :=
  p.wLs + (x - p.wLe - (p.wLe - p.wLs) * (⌊(x - p.wLe) / (p.wLe - p.wLs)⌋ : α))

section
variable {N : Num α} (hE : ExactNum N) {p : SamplePlay α} {f : α}
include hE

theorem sample_advance_straight (h : ¬ (p.wLoop = true ∧ p.wLs < p.wLe ∧ p.wLe ≤ p.moved f)) :
    p.advance N f = { p with pos := p.moved f } := by
  simp only [SamplePlay.advance, add_exact hE, div_exact hE]
  exact if_neg h

theorem sample_advance_wrap (loop : p.wLoop = true) (order : p.wLs < p.wLe) (reached : p.wLe ≤ p.moved f) :
    p.advance N f = { p with pos := p.wrapped (p.moved f) } := by
  simp only [SamplePlay.advance, add_exact hE, div_exact hE, sub_exact hE, fmod_exact hE]
  exact if_pos ⟨loop, order, reached⟩

end

/-- A remainder of a division by a positive span lies in [0, span). -/
theorem remainder_mem (y : α) {span : α} (h : 0 < span) : 0 ≤ y - span * (⌊y / span⌋ : α) ∧ y - span * (⌊y / span⌋ : α) < span := by
  have below := (le_div_iff₀ h).1 (Int.floor_le (y / span))
  have above := (div_lt_iff₀ h).1 (Int.lt_floor_add_one (y / span))
  constructor <;> linarith

theorem wrapped_mem {p : SamplePlay α} (order : p.wLs < p.wLe) (x : α) : p.wLs ≤ p.wrapped x ∧ p.wrapped x < p.wLe := by
  obtain ⟨low, high⟩ := remainder_mem (x - p.wLe) (sub_pos.2 order)
  unfold SamplePlay.wrapped
  constructor <;> linarith

/-- The wrap goes back by one span more than the whole spans past the loop end. -/
theorem wrapped_add_spans {p : SamplePlay α} (order : p.wLs < p.wLe) {x : α} (reached : p.wLe ≤ x) :
    ∃ n : Nat, p.wrapped x + n * (p.wLe - p.wLs) = x := by
  have whole : 0 ≤ ⌊(x - p.wLe) / (p.wLe - p.wLs)⌋ := Int.floor_nonneg.2 (div_nonneg (sub_nonneg.2 reached) (sub_pos.2 order).le)
  obtain ⟨k, hk⟩ := Int.eq_ofNat_of_zero_le whole
  refine ⟨k + 1, ?_⟩
  rw [SamplePlay.wrapped, hk]
  push_cast
  ring

/-! ### The divisors under a rounding NUM (60_exceptions.md R341, log 22) -/

theorem uq16_16_pos {N : Num α} (hK : N.KeepsSign) {w : Word} (h : 0 < w.toNat) : 0 < uq16_16 N w :=
  hK.pos _ (div_pos (Nat.cast_pos.2 h) (by norm_num))

theorem sub_pos_of_keepsSign {N : Num α} (hK : N.KeepsSign) {a b : α} (h : a < b) : 0 < N.sub b a := hK.pos _ (sub_pos.2 h)

/-- Settles O46: straight on, or a wrap by whole spans. -/
theorem loopWrapKeepsTheFraction : Obligations.LoopWrapKeepsTheFraction := by
  unfold Obligations.LoopWrapKeepsTheFraction
  intro α _ _ _ _ N
  refine ⟨fun hE p f => ?_, fun hK => ⟨fun freq h => uq16_16_pos hK h, fun a b h => sub_pos_of_keepsSign hK h⟩⟩
  by_cases wraps : p.wLoop = true ∧ p.wLs < p.wLe ∧ p.wLe ≤ p.moved f
  · obtain ⟨loop, order, reached⟩ := wraps
    obtain ⟨low, high⟩ := wrapped_mem order (p.moved f)
    refine ⟨_, sample_advance_wrap hE loop order reached, ?_, fun _ _ _ => ⟨low, high, wrapped_add_spans order reached⟩⟩
    rintro (unlooped | disordered | short)
    · simp [loop] at unlooped
    · exact absurd order disordered.not_gt
    · exact absurd reached short.not_ge
  · exact ⟨_, sample_advance_straight hE wraps, fun _ => rfl, fun loop order reached => absurd ⟨loop, order, reached⟩ wraps⟩

/-! ### A loop inside the sample (R148, R149) -/

/-- A sample state whose loop lies inside the sample, its position before the loop end. -/
structure LoopsInside (p : SamplePlay α) : Prop where
  loop : p.wLoop = true
  order : p.wLs < p.wLe
  inside : p.wLe ≤ (p.wLen.toNat : α) - 1
  before : p.pos < p.wLe

theorem LoopsInside.advance {N : Num α} (hE : ExactNum N) {p : SamplePlay α} (h : LoopsInside p) (f : α) : LoopsInside (p.advance N f) := by
  by_cases reached : p.wLe ≤ p.moved f
  · rw [sample_advance_wrap hE h.loop h.order reached]
    exact { h with before := (wrapped_mem h.order _).2 }
  · rw [sample_advance_straight hE fun wraps => reached wraps.2.2]
    exact { h with before := not_le.1 reached }

/-- Before the loop end the next frame of the sample exists too. -/
theorem LoopsInside.next_frame_lt {p : SamplePlay α} (h : LoopsInside p) : ⌊p.pos⌋ + 1 < (p.wLen.toNat : Int) := by
  have : ⌊p.pos⌋ < (p.wLen.toNat : Int) - 1 := Int.floor_lt.2 (by push_cast; exact h.before.trans_le h.inside)
  omega

/-- Settles O45: the loop stays inside the sample. -/
theorem loopedSampleNeverEnds : Obligations.LoopedSampleNeverEnds := by
  unfold Obligations.LoopedSampleNeverEnds
  intro α _ _ _ _ P mem ch v p hE tone rel loop order inside before
  refine afterFrames_ne_none (Q := fun _ w => w.rel = false ∧ ∃ q, w.tone = .sampled q ∧ LoopsInside q)
    ⟨rel, p, tone, loop, order, inside, before⟩ ?live ?carried
  case live =>
    rintro _ w ⟨rel, q, tone, h⟩
    rw [← Bool.not_eq_true, terminated_iff, rel, tone]
    simpa using h.next_frame_lt
  case carried =>
    rintro _ w o w' ⟨rel, q, tone, h⟩ e
    obtain ⟨-, -, -, sameRel, -⟩ := advance_keeps e
    exact ⟨sameRel.trans rel, _, tone_of_advance_sampled e tone, h.advance hE _⟩

/-! ### The read (R147) -/

/-- A point between two values lies between the smaller and the greater. -/
theorem interpolation_mem {a b t : α} (h0 : 0 ≤ t) (h1 : t ≤ 1) : min a b ≤ a + (b - a) * t ∧ a + (b - a) * t ≤ max a b := by
  rcases le_total a b with h | h
  · rw [min_eq_left h, max_eq_right h]
    constructor <;> nlinarith
  · rw [min_eq_right h, max_eq_left h]
    constructor <;> nlinarith

theorem read_exact {P : Params α} (hE : ExactNum P.num) (mem : WaveMem) (p : SamplePlay α) {f g : WaveFrame}
    (hf : f = waveRead P mem (p.wBase.toNat + ⌊p.pos⌋.toNat)) (hg : g = waveRead P mem (p.wBase.toNat + ⌊p.pos⌋.toNat + 1)) :
    p.read P mem = ⟨(f.left.toInt : α) + ((g.left.toInt : α) - f.left.toInt) * (p.pos - ⌊p.pos⌋),
      (f.right.toInt : α) + ((g.right.toInt : α) - f.right.toInt) * (p.pos - ⌊p.pos⌋)⟩ := by
  simp only [SamplePlay.read, lerp_exact hE, sub_exact hE, sampleQ, hf, hg]

/-- Settles O50: the fraction of the position lies in [0, 1). -/
theorem sampleReadStaysInside : Obligations.SampleReadStaysInside := by
  unfold Obligations.SampleReadStaysInside
  intro α _ _ _ _ P mem p hE nonneg next
  have : 0 ≤ ⌊p.pos⌋ := Int.floor_nonneg.2 nonneg
  refine ⟨by omega, fun f g hf hg => ?_⟩
  have t0 : 0 ≤ p.pos - ⌊p.pos⌋ := Int.fract_nonneg p.pos
  have t1 : p.pos - ⌊p.pos⌋ ≤ 1 := (Int.fract_lt_one p.pos).le
  rw [read_exact hE mem p hf hg]
  push_cast
  obtain ⟨left_low, left_high⟩ := interpolation_mem (a := (f.left.toInt : α)) (b := g.left.toInt) t0 t1
  obtain ⟨right_low, right_high⟩ := interpolation_mem (a := (f.right.toInt : α)) (b := g.right.toInt) t0 t1
  exact ⟨rfl, rfl, left_low, left_high, right_low, right_high⟩

end Sys2Proof.Machine
end

section
/-! O47, O48: the vibrato and the frequency law (40_voice.md R133, R150), in exact arithmetic. -/

namespace Sys2Proof.Machine

set_option linter.unusedSectionVars false

variable {α : Type} [Field α] [LinearOrder α] [FloorRing α]

/-! ### The vibrato (R150) -/

section
variable {P : Params α} {ch : Channel α} {v : Voice α}

/-- R150: the value one step takes the vibrato to, before the bounds. -/
def Voice.vibratoTarget (P : Params α) (ch : Channel α) (v : Voice α) : α :=
  P.num.add v.vibM (P.num.mul v.vibDir.sign (vibratoIncrement P ch))

theorem vibratoStep_upper (h : P.vibDepth ch.modDepth.toNat ≤ v.vibratoTarget P ch) :
    v.vibratoStep P ch = { v with vibM := P.vibDepth ch.modDepth.toNat, vibDir := .down } := if_pos h

theorem vibratoStep_lower (h : v.vibratoTarget P ch < P.vibDepth ch.modDepth.toNat)
    (h' : v.vibratoTarget P ch ≤ -P.vibDepth ch.modDepth.toNat) :
    v.vibratoStep P ch = { v with vibM := -P.vibDepth ch.modDepth.toNat, vibDir := .up } :=
  (if_neg (not_le.2 h)).trans (if_pos h')

theorem vibratoStep_between (h : v.vibratoTarget P ch < P.vibDepth ch.modDepth.toNat)
    (h' : -P.vibDepth ch.modDepth.toNat < v.vibratoTarget P ch) :
    v.vibratoStep P ch = { v with vibM := v.vibratoTarget P ch } :=
  (if_neg (not_le.2 h)).trans (if_neg (not_le.2 h'))

theorem vibratoTarget_exact (hE : ExactNum P.num) :
    v.vibratoTarget P ch = v.vibM + (if v.vibDir = .up then 1 else -1)
      * (4 * P.vibDepth ch.modDepth.toNat * P.vibRateHz ch.modSpeed.toNat / P.fs) := by
  simp only [Voice.vibratoTarget, vibratoIncrement, add_exact hE, mul_exact hE, div_exact hE, natQ]
  cases v.vibDir <;> rfl

end

/-- Settles O47: beyond the upper bound, beyond the lower, or between. -/
theorem vibratoMovesByItsStepAndTurns : Obligations.VibratoMovesByItsStepAndTurns := by
  unfold Obligations.VibratoMovesByItsStepAndTurns
  intro α _ _ _ _ P ch v d m hP hE hd hm
  rw [hd, ← vibratoTarget_exact hE] at hm
  subst hd hm
  have depth_nonneg := (vibDepth_mem hP ch.modDepth).1
  refine ⟨fun h => ?_, fun h h' => ?_, fun h' h => ?_, ?_⟩
  · rw [vibratoStep_upper h]
    exact ⟨rfl, rfl⟩
  · rw [vibratoStep_lower h h']
    exact ⟨rfl, rfl⟩
  · rw [vibratoStep_between h h']
    exact ⟨rfl, rfl⟩
  · rcases le_or_gt (P.vibDepth ch.modDepth.toNat) (v.vibratoTarget P ch) with h | h
    · rw [vibratoStep_upper h]
      exact ⟨by linarith, le_rfl⟩
    · rcases le_or_gt (v.vibratoTarget P ch) (-P.vibDepth ch.modDepth.toNat) with h' | h'
      · rw [vibratoStep_lower h h']
        exact ⟨le_rfl, by linarith⟩
      · rw [vibratoStep_between h h']
        exact ⟨h'.le, h.le⟩

/-! ### The frequency (R133) -/

theorem frequency_exact {N : Num α} (hE : ExactNum N) (v : Voice α) :
    v.frequency N = 440 * N.exp2Fn (((v.key.toNat : α) + v.bend + v.vibM + v.portaOff - 69) / 12) := by
  simp only [Voice.frequency, keyFrequency, add_exact hE, sub_exact hE, mul_exact hE, div_exact hE, exp2_exact hE, natQ]

/-- Settles O48: twelve semitones are one more in the exponent. -/
theorem frequencyLawHolds : Obligations.FrequencyLawHolds := by
  unfold Obligations.FrequencyLawHolds
  intro α _ _ _ _ N v hE hL
  refine ⟨frequency_exact hE v, ?octave, ?concert, fun hpos => frequency_pos (P := Config.defaults N) hE hpos v⟩
  case octave =>
    have octave_up : ((v.key.toNat : α) + (v.bend + 12) + v.vibM + v.portaOff - 69) / 12
        = ((v.key.toNat : α) + v.bend + v.vibM + v.portaOff - 69) / 12 + 1 := by ring
    rw [frequency_exact hE, frequency_exact hE]
    dsimp only
    rw [octave_up, hL.exp2_succ]
    ring
  case concert =>
    intro key bend vibM portaOff
    have key_number : (69 : BitVec 7).toNat = 69 := rfl
    have no_semitones : (((69 : Nat) : α) + 0 + 0 + 0 - 69) / 12 = 0 := by norm_num
    rw [frequency_exact hE, key, key_number, bend, vibM, portaOff, no_semitones, hL.exp2_zero, mul_one]

end Sys2Proof.Machine
end

section
/-! O49: the waveforms, the attack ramp and the Piano envelope of the default parameters (40_voice.md R137 to R143), in exact
arithmetic. -/

namespace Sys2Proof.Machine

set_option linter.unusedSectionVars false

variable {α : Type} [Field α] [LinearOrder α] [IsStrictOrderedRing α] [FloorRing α]

/-! ### Sums and clamps -/

theorem sum_exact {N : Num α} (hE : ExactNum N) (xs : List α) : N.sum xs = xs.sum := by
  have add : N.add = (· + ·) := funext fun a => funext fun b => add_exact hE a b
  rw [Num.sum, add, List.sum_eq_foldl]

theorem abs_sum_map_le {β : Type} {f g : β → α} {xs : List β} (h : ∀ x ∈ xs, |f x| ≤ g x) : |(xs.map f).sum| ≤ (xs.map g).sum := by
  induction xs with
  | nil => simp
  | cons x xs ih =>
    obtain ⟨hx, hxs⟩ := List.forall_mem_cons.1 h
    rw [List.map_cons, List.map_cons, List.sum_cons, List.sum_cons]
    exact (abs_add_le _ _).trans (add_le_add hx (ih hxs))

theorem clamp_eq_max_min (x : α) {lo hi : α} (h : lo ≤ hi) : clamp x lo hi = max lo (min hi x) := by
  unfold clamp
  split
  · next below => rw [min_eq_right (below.le.trans h), max_eq_left below.le]
  · next low =>
    split
    · next above => rw [min_eq_left above.le, max_eq_right h]
    · next high => rw [min_eq_right (not_lt.1 high), max_eq_right (not_lt.1 low)]

/-! ### The waveforms (R138, R141, R142) -/

section
variable {N : Num α} (hE : ExactNum N)
include hE

/-- R138: with the default weights `1/(k+1)` and phases 0 the partials are the terms of a sawtooth series. -/
theorem pianoTerms_exact (ph : α) (k n : Nat) :
    pianoTerms N ph k ((List.range' k n).map fun j => (1 / ((j + 1 : Nat) : α), 0))
      = (List.range' k n).map fun j => N.sin2piFn (((j + 1 : Nat) : α) * ph) / ((j + 1 : Nat) : α) := by
  induction n generalizing k with
  | zero => rfl
  | succ n ih =>
    rw [List.range'_succ, List.map_cons, List.map_cons, pianoTerms, ih, mul_exact hE, mul_exact hE, add_exact hE, sin2pi_exact hE,
      add_zero, natQ, one_div_mul_eq_div]

theorem pianoWave_defaults (ph : α) :
    pianoWave (Config.defaults N) ph =
      ((List.range 11).map fun k => N.sin2piFn (((k + 1 : Nat) : α) * ph) / ((k + 1 : Nat) : α)).sum * 27720 / 83711 := by
  have weights : Config.pianoPartials N = (List.range' 0 11).map fun j => (1 / ((j + 1 : Nat) : α), 0) := by
    rw [Config.pianoPartials, List.range_eq_range']
    simp only [hE _]
  have norm : (Config.defaults N).pianoNorm = 83711 / 27720 := hE _
  rw [pianoWave, norm]
  dsimp only [Config.defaults]
  rw [weights, pianoTerms_exact hE, sum_exact hE, mul_exact hE, div_exact hE, List.range_eq_range']
  ring

theorem squareWave_defaults (ph : α) :
    squareWave (Config.defaults N) ph =
      max (-1) (min 1 (8 * if ph < 1 / 4 then 4 * ph else if ph < 3 / 4 then 2 - 4 * ph else 4 * ph - 4)) := by
  rw [squareWave, clamp_eq_max_min _ (by norm_num)]
  simp only [Config.defaults, foldWave, mul_exact hE, sub_exact hE]

theorem triangleWave_defaults (ph : α) :
    triangleWave (Config.defaults N) ph = if ph < 1 / 4 then 8 * ph - 1 else 1 - 8 / 3 * (ph - 1 / 4) := by
  simp only [triangleWave, Config.defaults, add_exact hE, sub_exact hE, mul_exact hE, div_exact hE]
  split
  · ring
  · field_simp
    ring

theorem attackGain_defaults (age : Nat) : attackGain (Config.defaults N) age = ((min age 50 : Nat) : α) / 50 := by
  simp [attackGain, Config.defaults, div_exact hE, natQ]

/-- The weights add up to PIANO_NORM (R138). -/
theorem abs_pianoWave_defaults_le (hL : LawfulNum N) (ph : α) : |pianoWave (Config.defaults N) ph| ≤ 1 := by
  have partials := abs_sum_map_le (xs := List.range 11) (f := fun k => N.sin2piFn (((k + 1 : Nat) : α) * ph) / ((k + 1 : Nat) : α))
    (g := fun k => 1 / ((k + 1 : Nat) : α)) fun k _ => by
      rw [abs_div, Nat.abs_cast]
      exact div_le_div_of_nonneg_right (hL.sin2pi_le _) (Nat.cast_nonneg _)
  have weights : ((List.range 11).map fun k => 1 / ((k + 1 : Nat) : α)).sum = 83711 / 27720 := by
    norm_num [List.range_succ]
  rw [weights] at partials
  obtain ⟨low, high⟩ := abs_le.1 partials
  rw [pianoWave_defaults hE]
  exact abs_le.2 ⟨by linarith, by linarith⟩

theorem abs_triangleWave_defaults_le {ph : α} (h0 : 0 ≤ ph) (h1 : ph < 1) : |triangleWave (Config.defaults N) ph| ≤ 1 := by
  rw [triangleWave_defaults hE, abs_le]
  split <;> constructor <;> linarith

end

theorem abs_squareWave_le (P : Params α) (ph : α) : |squareWave P ph| ≤ 1 := abs_le.2 (clamp_mem _ _ _ (by norm_num))

/-! ### The Piano envelope (R139) -/

theorem breakpointsRise_cons_cons_iff {a b : α × α} {rest : List (α × α)} :
    breakpointsRise (a :: b :: rest) = true ↔ (0 ≤ a.2 ∧ a.2 ≤ 1) ∧ a.1 < b.1 ∧ breakpointsRise (b :: rest) = true := by
  simp [breakpointsRise, and_assoc]

theorem breakpointsRise_of_checkPiano {P : Params α} (h : P.checkPiano = true) : breakpointsRise P.pianoEnv = true := by
  simp only [Params.checkPiano, Bool.and_eq_true] at h
  exact h.2

/-- Every gain of a breakpoint table lies in [0, 1]. -/
theorem head_gain_mem {a : α × α} {rest : List (α × α)} (h : breakpointsRise (a :: rest) = true) : 0 ≤ a.2 ∧ a.2 ≤ 1 := by
  cases rest with
  | nil => simpa [breakpointsRise] using h
  | cons b rest => exact (breakpointsRise_cons_cons_iff.1 h).1

theorem head_lt_of_breakpointsRise {a x : α × α} {rest : List (α × α)} (h : breakpointsRise (a :: rest) = true) (hx : x ∈ rest) :
    a.1 < x.1 := by
  induction rest generalizing a with
  | nil => cases hx
  | cons b rest ih =>
    obtain ⟨-, rise, tail⟩ := breakpointsRise_cons_cons_iff.1 h
    rcases List.mem_cons.1 hx with rfl | hx
    · exact rise
    · exact rise.trans (ih tail hx)

theorem envelopeAt_of_lt (N : Num α) {t : α} {a b : α × α} (rest : List (α × α)) (h : t < b.1) :
    envelopeAt N t (a :: b :: rest) = N.lerp a.2 b.2 (N.div (N.sub t a.1) (N.sub b.1 a.1)) := if_pos h

theorem envelopeAt_of_le (N : Num α) {t : α} {a b : α × α} (rest : List (α × α)) (h : b.1 ≤ t) :
    envelopeAt N t (a :: b :: rest) = envelopeAt N t (b :: rest) := if_neg (not_lt.2 h)

/-- The breakpoints before the segment that holds `t` are passed over. -/
theorem envelopeAt_append (N : Num α) {pre post : List (α × α)} {a b : α × α} {t : α}
    (rise : breakpointsRise (pre ++ a :: b :: post) = true) (low : a.1 ≤ t) (high : t < b.1) :
    envelopeAt N t (pre ++ a :: b :: post) = N.lerp a.2 b.2 (N.div (N.sub t a.1) (N.sub b.1 a.1)) := by
  induction pre with
  | nil => exact envelopeAt_of_lt N post high
  | cons c pre ih =>
    cases pre with
    | nil => exact (envelopeAt_of_le N _ low).trans (ih (breakpointsRise_cons_cons_iff.1 rise).2.2)
    | cons d pre =>
      have tail := (breakpointsRise_cons_cons_iff.1 rise).2.2
      have passed : d.1 < a.1 := head_lt_of_breakpointsRise tail (by simp)
      exact (envelopeAt_of_le N _ (passed.le.trans low)).trans (ih tail)

/-- From the first breakpoint on, an envelope lies in [0, 1]. -/
theorem envelopeAt_mem {N : Num α} (hE : ExactNum N) {t : α} {a : α × α} {rest : List (α × α)}
    (rise : breakpointsRise (a :: rest) = true) (low : a.1 ≤ t) : 0 ≤ envelopeAt N t (a :: rest) ∧ envelopeAt N t (a :: rest) ≤ 1 := by
  induction rest generalizing a with
  | nil => exact head_gain_mem rise
  | cons b rest ih =>
    obtain ⟨gain, span, tail⟩ := breakpointsRise_cons_cons_iff.1 rise
    rcases lt_or_ge t b.1 with high | past
    · obtain ⟨above, below⟩ := interpolation_mem (a := a.2) (b := b.2) (t := (t - a.1) / (b.1 - a.1))
        (div_nonneg (sub_nonneg.2 low) (sub_pos.2 span).le) ((div_le_one (sub_pos.2 span)).2 (by linarith))
      rw [envelopeAt_of_lt N rest high, lerp_exact hE, div_exact hE, sub_exact hE, sub_exact hE]
      exact ⟨(le_min gain.1 (head_gain_mem tail).1).trans above, below.trans (max_le gain.2 (head_gain_mem tail).2)⟩
    · rw [envelopeAt_of_le N rest past]
      exact ih tail past

theorem pianoEnv_exact {P : Params α} (hE : ExactNum P.num) (v : Voice α) :
    v.pianoEnv P = envelopeAt P.num ((v.age : α) / P.pianoDur v.key.toNat) P.pianoEnv := by
  rw [Voice.pianoEnv, div_exact hE, natQ, natQ]

/-- R139: between two breakpoints the envelope is linear. -/
theorem pianoEnv_linear {P : Params α} (hP : P.wellFormed = true) (hE : ExactNum P.num) (v : Voice α) {pre post : List (α × α)}
    {x0 g0 x1 g1 t : α} (table : P.pianoEnv = pre ++ (x0, g0) :: (x1, g1) :: post) (ht : t = (v.age : α) / P.pianoDur v.key.toNat)
    (low : x0 ≤ t) (high : t < x1) : v.pianoEnv P = g0 + (g1 - g0) * ((t - x0) / (x1 - x0)) := by
  have rise := breakpointsRise_of_checkPiano ((Params.wellFormed_iff P).1 hP).2.1
  rw [table] at rise
  rw [pianoEnv_exact hE, ← ht, table, envelopeAt_append P.num rise low high, lerp_exact hE, div_exact hE, sub_exact hE, sub_exact hE]

theorem pianoEnv_defaults_mem {N : Num α} (hE : ExactNum N) (v : Voice α) :
    0 ≤ v.pianoEnv (Config.defaults N) ∧ v.pianoEnv (Config.defaults N) ≤ 1 := by
  rw [pianoEnv_exact hE]
  exact envelopeAt_mem hE (breakpointsRise_of_checkPiano (defaults_checkPiano hE)) (div_nonneg (Nat.cast_nonneg _) (Nat.cast_nonneg _))

/-! ### A Piano voice never exceeds its peak level (R135, R136, R137) -/

theorem fade_mem {v : Voice α} (budget : v.relLeft ≤ v.relTotal) : 0 ≤ v.fade ∧ v.fade ≤ 1 := by
  unfold Voice.fade
  split
  · exact ⟨zero_le_one, le_rfl⟩
  · exact ⟨div_nonneg (Nat.cast_nonneg _) (Nat.cast_nonneg _), div_le_one_of_le₀ (Nat.cast_le.2 budget) (Nat.cast_nonneg _)⟩

theorem level_mem {v : Voice α} (budget : v.relLeft ≤ v.relTotal) : 0 ≤ v.level ∧ v.level ≤ 1 := by
  obtain ⟨fade_nonneg, fade_le⟩ := fade_mem budget
  have vel_le : (v.vel.toNat : α) / 127 ≤ 1 := (div_le_one (by norm_num)).2 (by exact_mod_cast Nat.le_of_lt_succ v.vel.isLt)
  have soft_mem : (0 : α) ≤ (if v.soft then 1 / 2 else 1) ∧ (if v.soft then 1 / 2 else 1 : α) ≤ 1 := by
    split <;> norm_num
  unfold Voice.level
  exact ⟨mul_nonneg (mul_nonneg (by positivity) fade_nonneg) soft_mem.1,
    mul_le_one₀ (mul_le_one₀ vel_le fade_nonneg fade_le) soft_mem.1 soft_mem.2⟩

theorem abs_piano_output_le {N : Num α} (hE : ExactNum N) (hL : LawfulNum N) {mem : WaveMem} {v : Voice α}
    (budget : v.relLeft ≤ v.relTotal) (h : v.tone = .piano) : |(v.output (Config.defaults N) mem).1.l| ≤ 8192 := by
  obtain ⟨level_nonneg, level_le⟩ := level_mem budget
  obtain ⟨env_nonneg, env_le⟩ := pianoEnv_defaults_mem hE v
  have gain_le : v.level * v.pianoEnv (Config.defaults N) * |pianoWave (Config.defaults N) v.phase| ≤ 1 :=
    mul_le_one₀ (mul_le_one₀ level_le env_nonneg env_le) (abs_nonneg _) (abs_pianoWave_defaults_le hE hL _)
  rw [(output_piano_exact (P := Config.defaults N) hE mem h).1, abs_mul, abs_mul, abs_mul, abs_of_nonneg level_nonneg,
    abs_of_nonneg env_nonneg, mul_assoc, mul_assoc, ← mul_assoc v.level]
  have peak : |(Config.defaults N).peakPiano| = 8192 := abs_of_nonneg (by norm_num [Config.defaults])
  rw [peak]
  linarith

/-- Settles O49, waveform by waveform. -/
theorem waveformsFollowTheirRulesAndAreBounded : Obligations.WaveformsFollowTheirRulesAndAreBounded := by
  unfold Obligations.WaveformsFollowTheirRulesAndAreBounded
  intro α _ _ _ _ N hE hL
  refine ⟨fun ph => ?waves, attackGain_defaults hE, ?envelope, ?peak⟩
  case waves =>
    exact ⟨pianoWave_defaults hE ph, squareWave_defaults hE ph, triangleWave_defaults hE ph, abs_pianoWave_defaults_le hE hL ph,
      abs_squareWave_le _ ph, fun h0 h1 => abs_triangleWave_defaults_le hE h0 h1⟩
  case envelope =>
    intro P v pre post x0 g0 x1 g1 t hP hE' table ht low high
    exact pianoEnv_linear hP hE' v table ht low high
  case peak =>
    intro mem ch v v' o inv piano e
    rw [output_of_advance e]
    exact ⟨abs_piano_output_le hE hL inv.budget piano, (output_piano_exact (P := Config.defaults N) hE mem piano).2⟩

end Sys2Proof.Machine
end

section
/-! O33: the sustain table (40_voice.md R153). On a channel of one voice NOTEOFF and the writes of SUSTAIN are `release` and `pedal` of that
voice, and those move its latch as the table says. -/

namespace Sys2Proof.Machine

set_option linter.unusedSectionVars false

variable {α : Type} [Field α] [LinearOrder α] [FloorRing α]

/-! ### The events on a voice's latch (44_channel_commands.md R255, R262) -/

/-- What an event of the table does to the only voice of a channel, where its command names the voice's key. -/
def PedalEvent.onVoice (P : Params α) (vel : Nat) (t : Voice α) : PedalEvent → Voice α
  | .noteOff => if t.rel then t else t.release P vel
  | .pedalDown => t.pedal true
  | .pedalUp => t.pedal false

theorem sustainTable_noteOff : ∀ rel sus, sustainTable .noteOff (rel, sus, rel) = some (true, sus, true) := by decide

theorem sustainTable_pedalDown : ∀ rel sus, sustainTable .pedalDown (rel, sus, rel) = some (rel, sus || !rel, rel) := by decide

theorem sustainTable_pedalUp : ∀ rel sus, sustainTable .pedalUp (rel, sus, rel) = some (rel, false, rel) := by decide

theorem latch_pedal_down (t : Voice α) : (t.pedal true).latch = (t.rel, t.sus || !t.relOnce, t.relOnce) := by
  cases h : t.relOnce <;> simp [Voice.pedal, Voice.latch, h]

theorem latch_pedal_up (t : Voice α) : (t.pedal false).latch = (t.rel, false, t.relOnce) := rfl

theorem latch_noteOff (P : Params α) (vel : Nat) {t : Voice α} (latch : t.relOnce = t.rel) :
    (PedalEvent.noteOff.onVoice P vel t).latch = (true, t.sus, true) := by
  rw [PedalEvent.onVoice]
  split
  · next rel => rw [Voice.latch, latch, rel]
  · rfl

/-- R153: a voice that meets the latch invariant is in one of the four states of the table, and each event takes it on as the table
says. -/
theorem sustainTable_latch (P : Params α) (vel : Nat) {t : Voice α} (latch : t.relOnce = t.rel) (e : PedalEvent) :
    sustainTable e t.latch = some (e.onVoice P vel t).latch := by
  have state : t.latch = (t.rel, t.sus, t.rel) := by rw [Voice.latch, latch]
  rw [state]
  cases e with
  | noteOff => rw [sustainTable_noteOff, latch_noteOff P vel latch]
  | pedalDown => rw [sustainTable_pedalDown, PedalEvent.onVoice, latch_pedal_down, latch]
  | pedalUp => rw [sustainTable_pedalUp, PedalEvent.onVoice, latch_pedal_up, latch]

/-! ### The commands on a channel with one voice -/

theorem alwaysSustain_eq_false {t : Voice α} (h : ∀ q, t.tone = .sampled q → q.wAlways = false) : t.alwaysSustain = false := by
  unfold Voice.alwaysSustain
  split
  · next q hq => exact h q hq
  · rfl

theorem releaseFirst_singleton (P : Params α) (vel : Nat) {t : Voice α} (h : t.alwaysSustain = false) :
    releaseFirst P t.key vel [t] = [PedalEvent.noteOff.onVoice P vel t] := by
  cases rel : t.rel <;> simp [releaseFirst, PedalEvent.onVoice, rel, h]

theorem write_sustain_voices (ch : Channel α) (data : Word) :
    (ch.write 0x06 data).voices = ch.voices.map fun v => v.pedal (flag (lowBits 1 data)) := rfl

theorem flag_of_bit_set (data : Word) : flag (lowBits 1 (data ||| 1)) = true := by
  have set : lowBits 1 (data ||| 1) = BitVec.allOnes 1 := BitVec.setWidth_or.trans BitVec.or_allOnes
  rw [set]
  rfl

theorem flag_of_bit_clear (data : Word) : flag (lowBits 1 (data &&& 0xFFFFFFFE)) = false := by
  have clear : lowBits 1 (data &&& 0xFFFFFFFE) = 0 := BitVec.setWidth_and.trans BitVec.and_zero
  rw [clear]
  rfl

/-- What an event's command does to a channel. -/
def PedalEvent.onChannel (P : Params α) (key vel : BitVec 7) (data : Word) (ch : Channel α) : PedalEvent → Channel α
  | .noteOff => ch.noteOff P key vel.toNat
  | .pedalDown => ch.write 0x06 (data ||| 1)
  | .pedalUp => ch.write 0x06 (data &&& 0xFFFFFFFE)

theorem commandOp_pedalEvent (P : Params α) {c : BitVec 8} (hc : c.toNat < P.nchan) (key vel : BitVec 7) (data : Word) (s : State α)
    (e : PedalEvent) :
    commandOp P (e.command c key vel data) s = s.onChannel c.toNat fun ch => e.onChannel P key vel data ch := by
  cases e <;> exact if_pos hc

theorem PedalEvent.onChannel_voices (P : Params α) {ch : Channel α} {t : Voice α} (only : ch.voices = [t]) (h : t.alwaysSustain = false)
    (vel : BitVec 7) (data : Word) (e : PedalEvent) : (e.onChannel P t.key vel data ch).voices = [e.onVoice P vel.toNat t] := by
  cases e with
  | noteOff => exact (congrArg _ only).trans (releaseFirst_singleton P vel.toNat h)
  | pedalDown => rw [PedalEvent.onChannel, write_sustain_voices, only, flag_of_bit_set]; rfl
  | pedalUp => rw [PedalEvent.onChannel, write_sustain_voices, only, flag_of_bit_clear]; rfl

/-- Settles O33, by the effect of each event on the channel's one voice. -/
theorem sustainTableHolds : Obligations.SustainTableHolds := by
  unfold Obligations.SustainTableHolds
  intro c vel data s ch t e hc there only latch notAlways
  refine ⟨_, _, _, exec_eq_next_commandOp _ _, ?_, PedalEvent.onChannel_voices Config.params only (alwaysSustain_eq_false notAlways) vel data e,
    sustainTable_latch Config.params vel.toNat latch e⟩
  rw [commandOp_pedalEvent Config.params hc, onChannel_channels, if_pos rfl, there, Option.map_some]

end Sys2Proof.Machine
end

section
/-! O51: the one-pole filters (41_filters.md sections 1 and 2) in exact arithmetic. Their outputs stay bounded because a step keeps the
bound on the history. -/

namespace Sys2Proof.Machine

set_option linter.unusedSectionVars false

variable {α : Type} [Field α] [LinearOrder α] [IsStrictOrderedRing α] [FloorRing α]

/-! ### The clamp of a frequency -/

theorem clamp_of_gt {x lo hi : α} (h : lo ≤ hi) (above : hi < x) : clamp x lo hi = hi := by
  rw [clamp, if_neg (h.trans above.le).not_gt, if_pos above]

theorem clamp_of_nonpos {x hi : α} (hhi : 0 ≤ hi) (hx : x ≤ 0) : clamp x 0 hi = 0 := by
  rw [clamp_eq_max_min x hhi, min_eq_right (hx.trans hhi), max_eq_left hx]

/-- A bound on the inputs is not negative, unless there is no input. -/
theorem eq_nil_or_bound_nonneg {xs : List α} {M : α} (hxs : ∀ x ∈ xs, |x| ≤ M) : xs = [] ∨ 0 ≤ M := by
  cases xs with
  | nil => exact .inl rfl
  | cons x xs => exact .inr ((abs_nonneg x).trans (hxs x List.mem_cons_self))

/-! ### The steps (R180, R182) -/

section
variable {N : Num α} (hE : ExactNum N)
include hE

theorem lpStep_exact (a y1 x : α) : lpStep N a y1 x = a * x + (1 - a) * y1 := by
  simp only [lpStep, add_exact hE, sub_exact hE, mul_exact hE]

theorem hpStep_exact (a : α) (h : HighPass α) (x : α) : hpStep N a h x = ((x - h.x1 + h.y1) * a, ⟨x, (x - h.x1 + h.y1) * a⟩) := by
  simp only [hpStep, add_exact hE, sub_exact hE, mul_exact hE]

/-! ### The outputs of the one-pole filters (R180, R182, R188) -/

/-- R180: a coefficient of 1 passes every input, whatever the previous output. -/
theorem lpOutputs_one (y1 : α) (xs : List α) : lpOutputs N 1 y1 xs = xs := by
  induction xs generalizing y1 with
  | nil => rfl
  | cons x xs ih =>
    have step : lpStep N 1 y1 x = x := by rw [lpStep_exact hE]; ring
    rw [lpOutputs, step, ih]

/-- R183: a coefficient of 0 passes nothing, whatever the history. -/
theorem hpOutputs_zero (h : HighPass α) (xs : List α) : hpOutputs N 0 h xs = List.replicate xs.length 0 := by
  induction xs generalizing h with
  | nil => rfl
  | cons x xs ih => rw [hpOutputs, ih, hpStep_exact hE, mul_zero, List.length_cons, List.replicate_succ]

/-- R188: an output of the low-pass is a convex combination of the input and the previous output. -/
theorem abs_lpStep_le {a y1 x M : α} (ha : 0 ≤ a) (ha' : a ≤ 1) (hx : |x| ≤ M) (hy : |y1| ≤ M) : |lpStep N a y1 x| ≤ M :=
  calc |lpStep N a y1 x| ≤ |a * x| + |(1 - a) * y1| := by rw [lpStep_exact hE]; exact abs_add_le _ _
    _ = a * |x| + (1 - a) * |y1| := by rw [abs_mul, abs_mul, abs_of_nonneg ha, abs_of_nonneg (sub_nonneg.2 ha')]
    _ ≤ a * M + (1 - a) * M := add_le_add (mul_le_mul_of_nonneg_left hx ha) (mul_le_mul_of_nonneg_left hy (sub_nonneg.2 ha'))
    _ = M := by ring

theorem abs_lpOutputs_le {a M : α} (ha : 0 ≤ a) (ha' : a ≤ 1) {xs : List α} (hxs : ∀ x ∈ xs, |x| ≤ M) {y1 : α} (hy : |y1| ≤ M) :
    ∀ y ∈ lpOutputs N a y1 xs, |y| ≤ M := by
  induction xs generalizing y1 with
  | nil => exact fun _ h => nomatch h
  | cons x xs ih =>
    obtain ⟨hx, hxs⟩ := List.forall_mem_cons.1 hxs
    have next := abs_lpStep_le hE ha ha' hx hy
    exact List.forall_mem_cons.2 ⟨next, ih hxs next⟩

/-- R188: a step of the high-pass keeps the fixed point of `B = a * (2 * M + B)`. -/
theorem abs_hpStep_le {a M : α} (ha : 0 ≤ a) (ha' : a < 1) {h : HighPass α} {x : α} (hx : |x| ≤ M) (hx1 : |h.x1| ≤ M)
    (hy1 : |h.y1| ≤ 2 * a * M / (1 - a)) : |(hpStep N a h x).1| ≤ 2 * a * M / (1 - a) := by
  have rest : (1 : α) - a ≠ 0 := (sub_pos.2 ha').ne'
  calc |(hpStep N a h x).1| = |x - h.x1 + h.y1| * a := by rw [hpStep_exact hE, abs_mul, abs_of_nonneg ha]
    _ ≤ (|x| + |h.x1| + |h.y1|) * a :=
      mul_le_mul_of_nonneg_right ((abs_add_le _ _).trans (add_le_add_left (abs_sub _ _) _)) ha
    _ ≤ (M + M + 2 * a * M / (1 - a)) * a := mul_le_mul_of_nonneg_right (add_le_add (add_le_add hx hx1) hy1) ha
    _ = 2 * a * M / (1 - a) := by field_simp; ring

theorem abs_hpOutputs_le {a M : α} (ha : 0 ≤ a) (ha' : a < 1) {xs : List α} (hxs : ∀ x ∈ xs, |x| ≤ M) {h : HighPass α} (hx1 : |h.x1| ≤ M)
    (hy1 : |h.y1| ≤ 2 * a * M / (1 - a)) : ∀ y ∈ hpOutputs N a h xs, |y| ≤ 2 * a * M / (1 - a) := by
  induction xs generalizing h with
  | nil => exact fun _ h => nomatch h
  | cons x xs ih =>
    obtain ⟨hx, hxs⟩ := List.forall_mem_cons.1 hxs
    have next := abs_hpStep_le hE ha ha' hx hx1 hy1
    exact List.forall_mem_cons.2 ⟨next, ih hxs hx next⟩

end

/-! ### The coefficients of the one-pole filters (R181, R183) -/

section
variable {P : Params α} (hE : ExactNum P.num)
include hE

theorem halfRate_exact : P.num.div (natQ P.fs) 2 = (P.fs : α) / 2 := by rw [div_exact hE, natQ]

theorem rcOf_exact (fc : α) :
    rcOf P fc = if clamp fc 0 ((P.fs : α) / 2) = 0 then 0 else 1 / (2 * P.num.piConst * clamp fc 0 ((P.fs : α) / 2)) := by
  simp only [rcOf, halfRate_exact hE, div_exact hE, mul_exact hE]

theorem rcOf_of_nonpos {fc : α} (h : fc ≤ 0) : rcOf P fc = 0 := by
  rw [rcOf_exact hE, if_pos (clamp_of_nonpos (by positivity) h)]

theorem rcOf_of_mem {fc : α} (pos : 0 < fc) (high : fc ≤ (P.fs : α) / 2) : rcOf P fc = 1 / (2 * P.num.piConst * fc) := by
  rw [rcOf_exact hE, clamp_of_mem fc _ _ pos.le high, if_neg pos.ne']

theorem rcOf_of_gt {fc : α} (above : (P.fs : α) / 2 < fc) : rcOf P fc = rcOf P ((P.fs : α) / 2) := by
  have half : (0 : α) ≤ (P.fs : α) / 2 := by positivity
  rw [rcOf_exact hE, rcOf_exact hE, clamp_of_gt half above, clamp_of_mem _ _ _ half le_rfl]

theorem lpCoef_exact (fc : α) : lpCoef P fc = 1 / (1 + rcOf P fc * P.fs) := by
  rw [lpCoef, div_exact hE, add_exact hE, mul_exact hE, natQ]

theorem hpCoef_exact (fc : α) : hpCoef P fc = rcOf P fc / (rcOf P fc + 1 / P.fs) := by
  rw [hpCoef, div_exact hE, add_exact hE, div_exact hE, natQ]

/-- R183: the high-pass coefficient lies in [0, 1). -/
theorem hpCoef_mem (hpos : PositiveNum P.num) (hfs : 0 < P.fs) (fc : α) : 0 ≤ hpCoef P fc ∧ hpCoef P fc < 1 := by
  have rc := rcOf_nonneg hE hpos fc
  have period : (0 : α) < 1 / P.fs := one_div_pos.2 (Nat.cast_pos.2 hfs)
  rw [hpCoef_exact hE]
  exact ⟨by positivity, (div_lt_one (by positivity)).2 (lt_add_of_pos_right _ period)⟩

end

/-- Settles O51: the steps, then the coefficients through the time constant `RC`, then the bounds a step keeps. -/
theorem onePoleFiltersFollowTheirRulesAndStayBounded : Obligations.OnePoleFiltersFollowTheirRulesAndStayBounded := by
  unfold Obligations.OnePoleFiltersFollowTheirRulesAndStayBounded
  intro α _ _ _ _ P fc M xs hfs hE hpos hxs
  obtain ⟨lp_pos, lp_le⟩ := lpCoef_mem hE hpos fc
  obtain ⟨hp_nonneg, hp_lt⟩ := hpCoef_mem hE hpos hfs fc
  refine ⟨lpStep_exact hE, hpStep_exact hE, lp_pos, lp_le, hp_nonneg, hp_lt, ?zero, ?inside, ?above, ?lp_bound, ?hp_bound⟩
  case zero =>
    intro h
    have lp : lpCoef P fc = 1 := by rw [lpCoef_exact hE, rcOf_of_nonpos hE h, zero_mul, add_zero, div_one]
    have hp : hpCoef P fc = 0 := by rw [hpCoef_exact hE, rcOf_of_nonpos hE h, zero_div]
    rw [lp, hp]
    exact ⟨rfl, rfl, fun y1 => lpOutputs_one hE y1 xs, fun history => hpOutputs_zero hE history xs⟩
  case inside =>
    rintro rc pos high rfl
    rw [← rcOf_of_mem hE pos high]
    exact ⟨lpCoef_exact hE fc, hpCoef_exact hE fc⟩
  case above =>
    intro above
    rw [lpCoef_exact hE, hpCoef_exact hE, rcOf_of_gt hE above]
    exact ⟨(lpCoef_exact hE _).symm, (hpCoef_exact hE _).symm⟩
  case lp_bound =>
    obtain rfl | bound := eq_nil_or_bound_nonneg hxs
    · exact fun _ h => nomatch h
    · exact abs_lpOutputs_le hE lp_pos.le lp_le hxs (abs_zero.trans_le bound)
  case hp_bound =>
    obtain rfl | bound := eq_nil_or_bound_nonneg hxs
    · exact fun _ h => nomatch h
    · have room : 0 ≤ 1 - hpCoef P fc := sub_nonneg.2 hp_lt.le
      exact abs_hpOutputs_le hE hp_nonneg hp_lt hxs (abs_zero.trans_le bound) (abs_zero.trans_le (by positivity))

end Sys2Proof.Machine
end

section
/-! O52: the resonator (41_filters.md section 3) in exact arithmetic. Its bound is one a step keeps on a complex number: with `u` the
direction of a pole and `sqrt(c) * u` the pole, `u * y1 - sqrt(c) * y2` is multiplied by the pole in each step, has `a * x` added along
`u`, and has `y1 * Im u` as its imaginary part. -/

namespace Sys2Proof.Machine

set_option linter.unusedSectionVars false

/-! ### The poles (R187) -/

/-- The direction `exp(i * t)` of the pole `sqrt(c) * exp(i * t)` in the upper half plane, `cos t = -b / (2 * sqrt(c))` (R188). -/
noncomputable def poleDirection (b c : ℝ) : ℂ := ⟨-(b / (2 * Real.sqrt c)), Real.sqrt (1 - b ^ 2 / (4 * c))⟩

/-- R187: the poles lie inside the unit circle. -/
theorem one_sub_sqrt_pos {c : ℝ} (c_lt : c < 1) : 0 < 1 - Real.sqrt c := by
  rw [sub_pos, Real.sqrt_lt' one_pos, one_pow]
  exact c_lt

section
variable {b c : ℝ} (c_pos : 0 < c)
include c_pos

theorem sin_poleAngle_pos (poles : b * b < 4 * c) : 0 < Real.sqrt (1 - b ^ 2 / (4 * c)) := by
  rw [Real.sqrt_pos, sub_pos, div_lt_one (by positivity), pow_two]
  exact poles

theorem normSq_poleDirection (poles : b * b < 4 * c) : (poleDirection b c).re ^ 2 + (poleDirection b c).im ^ 2 = 1 := by
  have radicand : 0 ≤ 1 - b ^ 2 / (4 * c) := (Real.sqrt_pos.1 (sin_poleAngle_pos c_pos poles)).le
  rw [poleDirection, Real.sq_sqrt radicand, neg_sq, div_pow, mul_pow, Real.sq_sqrt c_pos.le]
  ring

theorem norm_poleDirection (poles : b * b < 4 * c) : ‖poleDirection b c‖ = 1 := by
  rw [Complex.norm_eq_sqrt_sq_add_sq, normSq_poleDirection c_pos poles, Real.sqrt_one]

/-- R187: `sqrt(c) * u` is a root of `z^2 + b * z + c`, divided here by `sqrt(c)`. -/
theorem poleDirection_root (poles : b * b < 4 * c) :
    Real.sqrt c * poleDirection b c ^ 2 + b * poleDirection b c + Real.sqrt c = 0 := by
  have unit := normSq_poleDirection c_pos poles
  have cos : 2 * Real.sqrt c * (poleDirection b c).re = -b := by
    have : Real.sqrt c ≠ 0 := (Real.sqrt_pos.2 c_pos).ne'
    rw [poleDirection]
    field_simp
  refine Complex.ext ?re ?im
  case re =>
    simp only [pow_two, Complex.add_re, Complex.mul_re, Complex.ofReal_re, Complex.ofReal_im, Complex.mul_im, zero_mul, sub_zero,
      Complex.zero_re]
    linear_combination -Real.sqrt c * unit + (poleDirection b c).re * cos
  case im =>
    simp only [pow_two, Complex.add_im, Complex.mul_im, Complex.ofReal_re, Complex.ofReal_im, Complex.mul_re, zero_mul, add_zero,
      Complex.zero_im]
    linear_combination (poleDirection b c).im * cos

end

/-! ### The number a step multiplies by the pole (R184, R188) -/

/-- The previous outputs `y1`, `y2` as one complex number. -/
noncomputable def resonatorMode (b c y1 y2 : ℝ) : ℂ := poleDirection b c * y1 - Real.sqrt c * y2

theorem resonatorMode_zero (b c : ℝ) : resonatorMode b c 0 0 = 0 := by simp [resonatorMode]

/-- The imaginary part of the mode is the last output times the sine of the pole's angle. -/
theorem resonatorMode_im (b c y1 y2 : ℝ) : (resonatorMode b c y1 y2).im = Real.sqrt (1 - b ^ 2 / (4 * c)) * y1 := by
  simp [resonatorMode, poleDirection]

section
variable {b c : ℝ} (c_pos : 0 < c) (poles : b * b < 4 * c)
include c_pos poles

/-- R184: a step multiplies the mode by the pole and adds the scaled input `w` along its direction. -/
theorem resonatorMode_step (w y1 y2 : ℝ) :
    resonatorMode b c (w - b * y1 - c * y2) y1
      = Real.sqrt c * poleDirection b c * resonatorMode b c y1 y2 + poleDirection b c * w := by
  have root := poleDirection_root c_pos poles
  have square : (Real.sqrt c : ℂ) * Real.sqrt c = c := by rw [← Complex.ofReal_mul, Real.mul_self_sqrt c_pos.le]
  simp only [resonatorMode, Complex.ofReal_sub, Complex.ofReal_mul]
  linear_combination -(y1 : ℂ) * root + poleDirection b c * y2 * square

theorem norm_resonatorMode_step_le (w y1 y2 : ℝ) :
    ‖resonatorMode b c (w - b * y1 - c * y2) y1‖ ≤ Real.sqrt c * ‖resonatorMode b c y1 y2‖ + |w| := by
  rw [resonatorMode_step c_pos poles]
  refine (norm_add_le _ _).trans_eq ?_
  rw [norm_mul, norm_mul, norm_mul, norm_poleDirection c_pos poles, Complex.norm_real, Complex.norm_real, Real.norm_eq_abs,
    Real.norm_eq_abs, abs_of_nonneg (Real.sqrt_nonneg c), mul_one, one_mul]

/-- The last output is bounded by the mode. -/
theorem abs_le_of_norm_resonatorMode_le {y1 y2 K : ℝ} (h : ‖resonatorMode b c y1 y2‖ ≤ K) :
    |y1| ≤ K / Real.sqrt (1 - b ^ 2 / (4 * c)) := by
  have sin := sin_poleAngle_pos c_pos poles
  rw [le_div_iff₀ sin]
  calc |y1| * Real.sqrt (1 - b ^ 2 / (4 * c)) = |(resonatorMode b c y1 y2).im| := by
        rw [resonatorMode_im, abs_mul, abs_of_pos sin, mul_comm]
    _ ≤ ‖resonatorMode b c y1 y2‖ := Complex.abs_im_le_norm _
    _ ≤ K := h

/-- R188: a step keeps the fixed point of `K = sqrt(c) * K + W` as a bound on the mode. -/
theorem norm_resonatorMode_step_le_of_le (c_lt : c < 1) {w y1 y2 W : ℝ} (hw : |w| ≤ W)
    (h : ‖resonatorMode b c y1 y2‖ ≤ W / (1 - Real.sqrt c)) :
    ‖resonatorMode b c (w - b * y1 - c * y2) y1‖ ≤ W / (1 - Real.sqrt c) := by
  have contraction : 1 - Real.sqrt c ≠ 0 := (one_sub_sqrt_pos c_lt).ne'
  calc ‖resonatorMode b c (w - b * y1 - c * y2) y1‖ ≤ Real.sqrt c * ‖resonatorMode b c y1 y2‖ + |w| :=
        norm_resonatorMode_step_le c_pos poles w y1 y2
    _ ≤ Real.sqrt c * (W / (1 - Real.sqrt c)) + W := add_le_add (mul_le_mul_of_nonneg_left h (Real.sqrt_nonneg c)) hw
    _ = W / (1 - Real.sqrt c) := by field_simp; ring

end

variable {α : Type} [Field α] [LinearOrder α] [IsStrictOrderedRing α] [FloorRing α]

/-! ### The step and its outputs (R184, R188) -/

section
variable {N : Num α} (hE : ExactNum N)
include hE

theorem bpStep_exact (k : BandCoef α) (y1 y2 x : α) : bpStep N k y1 y2 x = k.a * x - k.b * y1 - k.c * y2 := by
  simp only [bpStep, sub_exact hE, mul_exact hE]

/-- R188, read in the reals: while the mode of the history is within `|a| * M / (1 - sqrt(c))`, so is that of every later one, and the
outputs are within the bound. -/
theorem abs_bpOutputs_le {real : α →+* ℝ} (hreal : StrictMono real) {k : BandCoef α} (c_pos : 0 < real k.c) (c_lt : real k.c < 1)
    (poles : real k.b * real k.b < 4 * real k.c) {M : α} {xs : List α} (hxs : ∀ x ∈ xs, |x| ≤ M) {y1 y2 : α}
    (mode : ‖resonatorMode (real k.b) (real k.c) (real y1) (real y2)‖ ≤ |real k.a| * real M / (1 - Real.sqrt (real k.c))) :
    ∀ y ∈ bpOutputs N k y1 y2 xs,
      |real y| ≤ |real k.a| * real M / (1 - Real.sqrt (real k.c)) / Real.sqrt (1 - real k.b ^ 2 / (4 * real k.c)) := by
  induction xs generalizing y1 y2 with
  | nil => exact fun _ h => nomatch h
  | cons x xs ih =>
    obtain ⟨hx, hxs⟩ := List.forall_mem_cons.1 hxs
    have input : |real k.a * real x| ≤ |real k.a| * real M := by
      have : |real x| ≤ real M := by
        rw [abs_le, ← map_neg, hreal.le_iff_le, hreal.le_iff_le]
        exact abs_le.1 hx
      rw [abs_mul]
      exact mul_le_mul_of_nonneg_left this (abs_nonneg _)
    have next : ‖resonatorMode (real k.b) (real k.c) (real (bpStep N k y1 y2 x)) (real y1)‖
        ≤ |real k.a| * real M / (1 - Real.sqrt (real k.c)) := by
      rw [bpStep_exact hE, map_sub, map_sub, map_mul, map_mul, map_mul]
      exact norm_resonatorMode_step_le_of_le c_pos poles c_lt input mode
    exact List.forall_mem_cons.2 ⟨abs_le_of_norm_resonatorMode_le c_pos poles next, ih hxs next⟩

end

/-! ### The coefficients (R185, R186, R187) -/

section
variable {P : Params α} (hE : ExactNum P.num)
include hE

theorem bpCoef_c_exact (fc bw : α) (mode : ScaleMode) :
    (bpCoef P fc bw mode).c = P.num.expFn (-2 * P.num.piConst * clamp bw P.bwMin ((P.fs : α) / 2) / P.fs) := by
  simp only [bpCoef, exp_exact hE, div_exact hE, mul_exact hE, natQ]

theorem bpCoef_b_exact (fc bw : α) (mode : ScaleMode) :
    (bpCoef P fc bw mode).b = -(4 * (bpCoef P fc bw mode).c / (1 + (bpCoef P fc bw mode).c))
      * P.num.cos2piFn (clamp fc 0 ((P.fs : α) / 2) / P.fs) := by
  simp only [bpCoef, cos2pi_exact hE, div_exact hE, mul_exact hE, add_exact hE, natQ]

theorem bpCoef_a_exact (fc bw : α) (mode : ScaleMode) {k : BandCoef α} (hk : k = bpCoef P fc bw mode) :
    (mode = .pitched → k.a = (1 - k.c) * P.num.sqrtFn (1 - k.b * k.b / (4 * k.c)))
      ∧ (mode = .noise → k.a = P.num.sqrtFn (((1 + k.c) * (1 + k.c) - k.b * k.b) * (1 - k.c) / (1 + k.c))) := by
  have scale : k.a = bpScale P.num k.b k.c mode := by rw [hk]; rfl
  rw [scale]
  constructor <;> rintro rfl <;> simp only [bpScale, sqrt_exact hE, div_exact hE, mul_exact hE, add_exact hE, sub_exact hE]

/-- R187: `c` lies in (0, 1), the bandwidth being clamped above 0. -/
theorem bpCoef_c_stable (hL : LawfulNum P.num) (hpos : PositiveNum P.num) (hfs : 0 < P.fs) (hbw : 0 < P.bwMin) (fc bw : α)
    (mode : ScaleMode) : 0 < (bpCoef P fc bw mode).c ∧ (bpCoef P fc bw mode).c < 1 := by
  have fs : (0 : α) < P.fs := Nat.cast_pos.2 hfs
  have width : 0 < clamp bw P.bwMin ((P.fs : α) / 2) := clamp_pos bw hbw (half_pos fs)
  have exponent : -2 * P.num.piConst * clamp bw P.bwMin ((P.fs : α) / 2) / P.fs < 0 :=
    div_neg_of_neg_of_pos (mul_neg_of_neg_of_pos (mul_neg_of_neg_of_pos (by norm_num) hpos.pi_pos) width) fs
  rw [bpCoef_c_exact hE]
  exact ⟨hL.exp_pos _ exponent, hL.exp_lt_one _ exponent⟩

end

/-- R186: `4c < (1 + c)^2` for `c` below 1, so `b` gives complex poles whatever the cosine `t`. -/
theorem poles_of_cosine {b c t : α} (c_pos : 0 < c) (c_lt : c < 1) (ht : |t| ≤ 1) (hb : b = -(4 * c / (1 + c)) * t) :
    b * b < 4 * c := by
  have shrink : 4 * c / (1 + c) ^ 2 < 1 := by
    rw [div_lt_one (by positivity)]
    linarith [pow_pos (sub_pos.2 c_lt) 2]
  calc b * b = 4 * c * (4 * c / (1 + c) ^ 2) * t ^ 2 := by rw [hb]; field_simp
    _ ≤ 4 * c * (4 * c / (1 + c) ^ 2) := mul_le_of_le_one_right (by positivity) ((sq_le_one_iff_abs_le_one t).2 ht)
    _ < 4 * c := mul_lt_of_lt_one_right (by positivity) shrink

/-- Settles O52: the coefficients in closed form, their stability, and the bound a step keeps on the mode. -/
theorem resonatorFollowsItsRulesAndStaysBounded : Obligations.ResonatorFollowsItsRulesAndStaysBounded := by
  unfold Obligations.ResonatorFollowsItsRulesAndStaysBounded
  intro α _ _ _ _ P fc bw M fc' bw' mode k xs real hfs hbw hE hL hpos hreal hxs hfc' hbw' hk
  have c_eq : k.c = P.num.expFn (-2 * P.num.piConst * bw' / P.fs) := by rw [hk, hbw']; exact bpCoef_c_exact hE fc bw mode
  have b_eq : k.b = -(4 * k.c / (1 + k.c)) * P.num.cos2piFn (fc' / P.fs) := by rw [hk, hfc']; exact bpCoef_b_exact hE fc bw mode
  obtain ⟨a_pitched, a_noise⟩ := bpCoef_a_exact hE fc bw mode hk
  obtain ⟨c_pos, c_lt⟩ : 0 < k.c ∧ k.c < 1 := hk ▸ bpCoef_c_stable hE hL hpos hfs hbw fc bw mode
  have poles : k.b * k.b < 4 * k.c := poles_of_cosine c_pos c_lt (hL.cos2pi_le _) b_eq
  refine ⟨bpStep_exact hE k, c_eq, b_eq, a_pitched, a_noise, c_pos, c_lt, poles, ?bound⟩
  have real_c_pos : 0 < real k.c := by simpa only [map_zero] using hreal c_pos
  have real_c_lt : real k.c < 1 := by simpa only [map_one] using hreal c_lt
  have real_poles : real k.b * real k.b < 4 * real k.c := by simpa only [map_mul, map_ofNat] using hreal poles
  obtain rfl | bound := eq_nil_or_bound_nonneg hxs
  · exact fun _ h => nomatch h
  · have room : 0 < 1 - Real.sqrt (real k.c) := one_sub_sqrt_pos real_c_lt
    have real_bound : 0 ≤ real M := by simpa only [map_zero] using hreal.monotone bound
    rw [← div_div]
    refine abs_bpOutputs_le hE hreal real_c_pos real_c_lt real_poles hxs ?_
    rw [map_zero, resonatorMode_zero, norm_zero]
    positivity

end Sys2Proof.Machine
end

section
/-! O25, O55, O53: the chorus and echo units (42_chorus_echo.md). FXSTART is `start` on the one unit it names; the echo is two lines that
replay their side of the input, read at three delays; `process` guards each unit's step. -/

namespace Sys2Proof.Machine

set_option linter.unusedSectionVars false

variable {α : Type} [Field α] [LinearOrder α] [FloorRing α] {P : Params α}

/-! ### The index checks of FXSTART -/

theorem le_two_of_hasUnit {u : BitVec 8} (h : P.hasUnit u = true) : u.toNat ≤ 2 :=
  of_decide_eq_true ((Bool.and_eq_true _ _).mp h).1

theorem hasEcho_of_hasUnit {u : BitVec 8} (h : P.hasUnit u = true) (echo : u.toNat = 1) : P.hasEcho = true := by
  simpa [Params.hasUnit, echo] using h

theorem ownerIndex_shared (h : P.topology = .shared) (owner : Nat) : ownerIndex P owner = 0 := by
  rw [ownerIndex, h]

theorem ownerIndex_priv (h : P.topology = .priv) (owner : Nat) : ownerIndex P owner = owner := by
  rw [ownerIndex, h]

theorem lt_nchan_of_hasOwner {owner : BitVec 8} (h : P.hasOwner owner = true) (priv : P.topology = .priv) :
    owner.toNat < P.nchan := by
  rw [Params.hasOwner, priv] at h
  exact of_decide_eq_true h

/-- R57: an owner that exists has its units in the list. -/
theorem ownerIndex_lt_owners {owner : BitVec 8} (h : P.hasOwner owner = true) : ownerIndex P owner.toNat < P.owners := by
  cases topology : P.topology with
  | shared =>
    rw [ownerIndex_shared topology, Params.owners, topology]
    exact Nat.one_pos
  | priv =>
    rw [ownerIndex_priv topology, Params.owners, topology]
    exact lt_nchan_of_hasOwner h topology

/-- R202: past its checks FXSTART is `start` on the units of its owner. -/
theorem fxStartOp_of_present {owner u : BitVec 8} (unit : P.hasUnit u = true) (present : P.hasOwner owner = true) (depth : BitVec 7)
    (s : State α) :
    fxStartOp P owner u depth s = s.onOwner (ownerIndex P owner.toNat) fun x => x.start P u.toNat depth := by
  have noEcho : ¬(u.toNat = 1 ∧ P.hasEcho = false) := fun ⟨echo, absent⟩ =>
    Bool.noConfusion (absent.symm.trans (hasEcho_of_hasUnit unit echo))
  have noOwner : ¬(P.topology = .priv ∧ P.nchan ≤ owner.toNat) := fun ⟨priv, beyond⟩ =>
    beyond.not_gt (lt_nchan_of_hasOwner present priv)
  rw [fxStartOp, if_neg (le_two_of_hasUnit unit).not_gt, if_neg noEcho, if_neg noOwner]

/-! ### What `start` makes of each unit -/

theorem start_chorus (x : FxUnits α) (depth : BitVec 7) : x.start P 0 depth = { x with chorus := ⟨depth, [], 0, 0⟩ } := rfl

theorem start_echo (x : FxUnits α) (depth : BitVec 7) : x.start P 1 depth = { x with echo := ⟨depth, [], [], 0⟩ } := rfl

/-- R202: a reverb at depth 0 keeps its coefficients and has those of its depth at every other. -/
theorem coefficients_eq (v : Reverb α) :
    v.coefficients P = { v with
      fb := if v.depth = 0 then v.fb else P.revFeedback (reverberance P.num v.depth.toNat)
      damp := if v.depth = 0 then v.damp else P.revDamp (reverberance P.num v.depth.toNat) } := by
  unfold Reverb.coefficients
  by_cases off : v.depth = 0
  · simp only [if_pos off]
  · simp only [if_neg off]

theorem start_reverb (x : FxUnits α) (depth : BitVec 7) :
    x.start P 2 depth = { x with reverb :=
      { ({ x.reverb with depth := depth } : Reverb α).clear with
        fb := if depth = 0 then x.reverb.fb else P.revFeedback (reverberance P.num depth.toNat)
        damp := if depth = 0 then x.reverb.damp else P.revDamp (reverberance P.num depth.toNat) } } :=
  congrArg (fun v => { x with reverb := v }) (coefficients_eq ({ x.reverb with depth := depth } : Reverb α).clear)

/-- Settles O25: a failed check leaves the state, and past the checks the owner is in the list and `start` is applied to its units. -/
theorem fxstartStartsOneUnit : Obligations.FxstartStartsOneUnit := by
  unfold Obligations.FxstartStartsOneUnit
  refine ⟨?noop, ?started, fun owner u depth s => exec_eq_next_commandOp (.fxstart owner u depth) s⟩
  case noop =>
    rintro α _ _ _ _ P owner u depth s (noUnit | noOwner)
    · exact fxStartOp_of_no_unit owner depth s noUnit
    · exact fxStartOp_of_no_owner u depth s noOwner
  case started =>
    intro α _ _ _ _ P owner u depth s unit present owners
    have inList : ownerIndex P owner.toNat < s.fx.length := owners ▸ ownerIndex_lt_owners present
    have started := fxStartOp_of_present unit present depth s
    rcases onOwner_cases s (ownerIndex P owner.toNat) fun x => x.start P u.toNat depth with ⟨x, there, e⟩ | ⟨absent, -⟩
    · refine ⟨ownerIndex P owner.toNat, x, x.start P u.toNat depth, fun shared => ownerIndex_shared shared _,
        fun priv => ownerIndex_priv priv _, there, started.trans e, ?_, ?_, ?_⟩
      · rintro rfl
        exact start_chorus x depth
      · rintro rfl
        exact start_echo x depth
      · rintro rfl
        exact start_reverb x depth
    · exact absurd (List.getElem?_eq_none_iff.1 absent) inList.not_ge

/-! ### The echo -/

theorem echo_fed_concat (x : Echo α) (ins : List (Stereo α)) (s : Stereo α) : x.fed P (ins ++ [s]) = ((x.fed P ins).wet P s).2 := by
  rw [Echo.fed, List.foldl_append]
  rfl

@[simp] theorem echo_fed_depth (x : Echo α) (ins : List (Stereo α)) : (x.fed P ins).depth = x.depth := by
  induction ins using List.reverseRecOn with
  | nil => rfl
  | append_singleton ins s ih => rw [echo_fed_concat]; exact ih

/-- R220: each side of the echo history replays that side of the input. Only the dry input is ever written: there is no feedback. -/
theorem echo_fed_replays {x : Echo α} (clearedL : x.histL = []) (clearedR : x.histR = []) (hw : x.w < P.echoLen)
    (ins : List (Stereo α)) :
    Replays P.echoLen (x.fed P ins).histL (x.fed P ins).w (ins.map (·.l))
      ∧ Replays P.echoLen (x.fed P ins).histR (x.fed P ins).w (ins.map (·.r)) := by
  induction ins using List.reverseRecOn with
  | nil =>
    have startL : Replays P.echoLen x.histL x.w [] := clearedL ▸ Replays.cleared hw
    have startR : Replays P.echoLen x.histR x.w [] := clearedR ▸ Replays.cleared hw
    exact ⟨startL, startR⟩
  | append_singleton ins s ih =>
    obtain ⟨left, right⟩ := ih
    rw [echo_fed_concat, List.map_append, List.map_append]
    exact ⟨left.write s.l, right.write s.r⟩

/-- R220: a tap adds, on each side, the input of its delay ago times its gain. -/
theorem echoTap_of_replays (hE : ExactNum P.num) {x : Echo α} {ls rs : List α} (left : Replays P.echoLen x.histL x.w ls)
    (right : Replays P.echoLen x.histR x.w rs) {k : Nat} (hbase : 0 < P.echoBase) (hk : k < 3) (gain : α) :
    echoTap P x k gain =
      ⟨inputAgo ls ((k + 1) * P.echoBase) * (gain * x.depth.toNat / 127),
        inputAgo rs ((k + 1) * P.echoBase) * (gain * x.depth.toNat / 127)⟩ := by
  have one_le : 1 ≤ (k + 1) * P.echoBase := Nat.mul_pos k.succ_pos hbase
  have le_len : (k + 1) * P.echoBase ≤ P.echoLen := Nat.mul_le_mul_right _ hk
  simp only [echoTap, mul_exact hE, div_exact hE, natQ, left.replay _ one_le le_len, right.replay _ one_le le_len]

theorem echo_wet_three_taps {g1 g2 g3 : α} (gains : P.echoGain = [g1, g2, g3]) (x : Echo α) (s : Stereo α) :
    (x.wet P s).1 =
      ((Stereo.zero.add P.num (echoTap P x 0 g1)).add P.num (echoTap P x 1 g2)).add P.num (echoTap P x 2 g3) := by
  rw [Echo.wet, gains]
  rfl

/-- Settles O55: the three taps read lines that replay the input. -/
theorem echoIsThreeDelayedCopies : Obligations.EchoIsThreeDelayedCopies := by
  unfold Obligations.EchoIsThreeDelayedCopies
  intro α _ _ _ _ P x ins s g1 g2 g3 hE gains hbase clearedL clearedR hw
  obtain ⟨left, right⟩ := echo_fed_replays clearedL clearedR hw ins
  have tap {k : Nat} (hk : k < 3) := echoTap_of_replays hE left right hbase hk
  rw [echo_wet_three_taps gains, tap (k := 0) (by decide), tap (k := 1) (by decide), tap (k := 2) (by decide)]
  simp only [Stereo.add, Stereo.zero, add_exact hE, echo_fed_depth, zero_add, one_mul, Nat.reduceAdd]

/-! ### `process` -/

/-- Settles O53, unit by unit: disabled, or enabled. -/
theorem processContractHolds : Obligations.ProcessContractHolds := by
  unfold Obligations.ProcessContractHolds
  intro α _ _ _ _ P s
  refine ⟨fun x => ?chorus, fun x => ?echo, fun v => ?reverb⟩
  case chorus =>
    unfold Chorus.process
    split
    · rfl
    · rfl
  case echo =>
    unfold Echo.process
    split
    · rfl
    · rfl
  case reverb =>
    unfold Reverb.process
    split
    · rfl
    · rfl

end Sys2Proof.Machine
end

section
/-! O56: the filters of the reverb (43_reverb.md R231, R236, R237, R239) in exact arithmetic. A comb and an all-pass are each one delay line
that is read, then written at its position; what is read is what was written `len` calls before. A step of the reverb is the combs of a
bank in parallel, summed, and the all-passes in series. -/

namespace Sys2Proof.Machine

set_option linter.unusedSectionVars false

variable {α : Type} [Field α] [LinearOrder α] [FloorRing α]

/-! ### What a delay line answers to what is written to it (20_memory.md R92) -/

/-- What is read at the position of a line before each of the writes `ws`, the position moving on after each. -/
def lineReads (len : Nat) : Line α → Nat → List α → List α
  | _, _, [] => []
  | b, i, w :: ws => lineRead b i :: lineReads len (lineWrite b i w) ((i + 1) % len) ws

/-- The write `d` calls before call `k`. -/
theorem inputAgo_take (ws : List α) {k d : Nat} (hd : 0 < d) (hk : k < ws.length) :
    inputAgo (ws.take k) d = if k < d then 0 else ws.getD (k - d) 0 := by
  rw [inputAgo, List.length_take_of_le hk.le]
  split
  · next late =>
    have older : k - d < k := by omega
    rw [if_neg late.not_gt, List.getD_eq_getElem?_getD, List.getElem?_take_of_lt older, List.getD_eq_getElem?_getD]
  · next early => rw [if_pos (not_le.1 early)]

/-- A line that holds the last of the writes `past` reads before each further write the one of `len` calls ago. -/
theorem lineReads_of_replays {len : Nat} {b : Line α} {i : Nat} {past : List α} (h : Replays len b i past) {ws : List α} {k : Nat}
    (hk : k < ws.length) : (lineReads len b i ws)[k]? = some (inputAgo (past ++ ws.take k) len) := by
  induction ws generalizing b i past k with
  | nil => exact absurd hk (Nat.not_lt_zero k)
  | cons w ws ih =>
    cases k with
    | zero => rw [List.take_zero, List.append_nil, ← h.oldest]; rfl
    | succ k =>
      have later := ih (h.write w) (Nat.lt_of_succ_lt_succ hk)
      rwa [List.append_assoc, List.singleton_append, ← List.take_succ_cons] at later

theorem lineReads_cleared {len : Nat} (hlen : 0 < len) {ws : List α} {k : Nat} (hk : k < ws.length) :
    (lineReads len [] 0 ws)[k]? = some (if k < len then 0 else ws.getD (k - len) 0) := by
  rw [lineReads_of_replays (Replays.cleared hlen) hk, List.nil_append, inputAgo_take ws hlen hk]

theorem getD_zipWith (f : α → α → α) {xs ys : List α} {k : Nat} (hx : k < xs.length) (hy : k < ys.length) :
    (List.zipWith f xs ys).getD k 0 = f (xs.getD k 0) (ys.getD k 0) := by
  rw [List.getD_eq_getElem _ _ (by simp [hx, hy]), List.getElem_zipWith, List.getD_eq_getElem _ _ hx, List.getD_eq_getElem _ _ hy]

theorem mem_of_sparseFind {β : Type} {m : List (Nat × β)} {i : Nat} {x : β} (h : sparseFind m i = some x) : (i, x) ∈ m := by
  induction m with
  | nil => cases h
  | cons e m ih =>
    unfold sparseFind at h
    split at h
    · next here =>
      cases h
      rw [here]
      exact List.mem_cons_self
    · exact List.mem_cons_of_mem _ (ih h)

/-- A line reads one of the values it stores, or 0. -/
theorem lineRead_in {V : α → Prop} (zero : V 0) {b : Line α} (h : Line.In V b) (i : Nat) : V (lineRead b i) := by
  unfold lineRead
  cases found : sparseFind b i with
  | none => exact zero
  | some x => exact h x (List.mem_map.2 ⟨(i, x), mem_of_sparseFind found, rfl⟩)

/-! ### The all-pass (R237) -/

@[simp] theorem length_allPassOutputs {P : Params α} (len : Nat) (a : AllPass α) (xs : List α) :
    (allPassOutputs P len a xs).length = xs.length := by
  induction xs generalizing a with
  | nil => rfl
  | cons x xs ih => exact congrArg (· + 1) (ih _)

/-- What an all-pass writes to its line, from its inputs and outputs: an output plus its input is what was read. -/
def allPassWrites (g : α) (xs outs : List α) : List α := List.zipWith (fun x out => x + (out + x) * g) xs outs

/-- R237: an output is what the line reads less the input. -/
theorem allPassOutputs_eq {P : Params α} (hE : ExactNum P.num) (len : Nat) (a : AllPass α) (xs : List α) :
    allPassOutputs P len a xs
      = List.zipWith (· - ·) (lineReads len a.buf a.i (allPassWrites P.apFeedback xs (allPassOutputs P len a xs))) xs := by
  induction xs generalizing a with
  | nil => rfl
  | cons x xs ih =>
    have tail := ih (a.step P len x).2
    simp only [AllPass.step, add_exact hE, sub_exact hE, mul_exact hE] at tail
    simp only [allPassOutputs, AllPass.step, add_exact hE, sub_exact hE, mul_exact hE, allPassWrites, List.zipWith_cons_cons,
      sub_add_cancel, lineReads]
    exact congrArg _ tail

theorem allPassOutputs_cleared {P : Params α} (hE : ExactNum P.num) {len : Nat} (hlen : 0 < len) {xs outs : List α}
    (houts : outs = allPassOutputs P len AllPass.cleared xs) {k : Nat} (hk : k < xs.length) :
    outs[k]? = some (if k < len then -xs.getD k 0
      else (1 + P.apFeedback) * xs.getD (k - len) 0 + P.apFeedback * outs.getD (k - len) 0 - xs.getD k 0) := by
  have outs_length : outs.length = xs.length := by rw [houts, length_allPassOutputs]
  have outs_eq : outs = List.zipWith (· - ·) (lineReads len [] 0 (allPassWrites P.apFeedback xs outs)) xs := by
    rw [houts]
    exact allPassOutputs_eq hE len AllPass.cleared xs
  have read := lineReads_cleared (ws := allPassWrites P.apFeedback xs outs) hlen (k := k) (by simp [allPassWrites, outs_length, hk])
  have input : xs[k]? = some (xs.getD k 0) := by rw [List.getD_eq_getElem _ _ hk, List.getElem?_eq_getElem hk]
  rw [outs_eq, List.getElem?_zipWith, ← outs_eq, read, input]
  refine congrArg some ?_
  split
  · exact zero_sub _
  · have older : k - len < xs.length := by omega
    rw [allPassWrites, getD_zipWith _ older (outs_length ▸ older)]
    ring

/-! ### The banks of a side (R231) -/

/-- R231: the combs of a bank in parallel: each is fed `x` and stepped by itself, and the outputs are added. -/
theorem combBank_exact {N : Num α} (hE : ExactNum N) (x fb damp : α) {lens : List Nat} {cs : List (Comb α)}
    (h : lens.length = cs.length) (acc : α) :
    combBank N x fb damp lens cs acc = (acc + ((lens.zip cs).map fun c => (c.2.step N c.1 x fb damp).1).sum,
      (lens.zip cs).map fun c => (c.2.step N c.1 x fb damp).2) := by
  induction lens generalizing cs acc with
  | nil =>
    obtain rfl := List.length_eq_zero_iff.1 h.symm
    exact congrArg (·, []) (add_zero acc).symm
  | cons len lens ih =>
    cases cs with
    | nil => cases h
    | cons c cs =>
      simp only [combBank, ih (Nat.succ.inj h), add_exact hE, List.zip_cons_cons, List.map_cons, List.sum_cons, add_assoc]

/-- R231: a side of the reverb is its combs in parallel, then its four all-passes in series. -/
theorem sideStep_banks {P : Params α} (hE : ExactNum P.num) (fb damp x : α) {lens : List Nat} {combs : List (Comb α)}
    (h : lens.length = combs.length) (aps : List Nat) (chain : List (AllPass α)) :
    SideStep P fb damp x lens combs (combBank P.num x fb damp lens combs 0).2 aps chain
      (allPassChain P aps chain (combBank P.num x fb damp lens combs 0).1).2
      (allPassChain P aps chain (combBank P.num x fb damp lens combs 0).1).1 := by
  rw [combBank_exact hE x fb damp h, zero_add]
  refine ⟨rfl, ?_⟩
  rintro n1 n2 n3 n4 a1 a2 a3 a4 rfl rfl
  exact ⟨_, _, _, _, rfl, rfl, rfl, rfl, rfl, rfl⟩

/-! ### The reverb (R230, R231) -/

/-- R233: the pre-delay changes its own line and position only. -/
theorem predelay_keeps (P : Params α) (v : Reverb α) (x0 : α) :
    (v.predelay P x0).2 = { v with pre := (v.predelay P x0).2.pre, pw := (v.predelay P x0).2.pw } := by
  unfold Reverb.predelay
  split <;> rfl

/-- R230, R231: the wet signal is, side by side, what the pre-delayed mono input makes of the banks. -/
theorem reverb_wet_sides {P : Params α} (hE : ExactNum P.num) (v : Reverb α) (s : Stereo α) (hL : P.combLen.length = v.combL.length)
    (hR : P.combLen.length = v.combR.length) :
    ∃ x yl yr v', v.wet P s = (⟨yl * P.revWet, yr * P.revWet⟩, v')
      ∧ (x, { v with pre := v'.pre, pw := v'.pw }) = v.predelay P ((s.l + s.r) * P.revGain)
      ∧ v'.depth = v.depth ∧ v'.fb = v.fb ∧ v'.damp = v.damp
      ∧ SideStep P v.fb v.damp x P.combLen v.combL v'.combL P.apLen v.apL v'.apL yl
      ∧ SideStep P v.fb v.damp x P.combLenR v.combR v'.combR P.apLenR v.apR v'.apR yr := by
  have hR' : P.combLenR.length = v.combR.length := List.length_map (as := P.combLen) _ ▸ hR
  have keeps := predelay_keeps P v ((s.l + s.r) * P.revGain)
  rcases e : v.predelay P ((s.l + s.r) * P.revGain) with ⟨x, v1⟩
  rw [e] at keeps
  dsimp only at keeps
  have wet : v.wet P s = (⟨(allPassChain P P.apLen v.apL (combBank P.num x v.fb v.damp P.combLen v.combL 0).1).1 * P.revWet,
        (allPassChain P P.apLenR v.apR (combBank P.num x v.fb v.damp P.combLenR v.combR 0).1).1 * P.revWet⟩,
      { v1 with
        combL := (combBank P.num x v.fb v.damp P.combLen v.combL 0).2
        combR := (combBank P.num x v.fb v.damp P.combLenR v.combR 0).2
        apL := (allPassChain P P.apLen v.apL (combBank P.num x v.fb v.damp P.combLen v.combL 0).1).2
        apR := (allPassChain P P.apLenR v.apR (combBank P.num x v.fb v.damp P.combLenR v.combR 0).1).2 }) := by
    simp only [Reverb.wet, add_exact hE, mul_exact hE, e]
    rw [keeps]
  refine ⟨x, _, _, _, wet, congrArg _ keeps.symm, ?_, ?_, ?_, sideStep_banks hE v.fb v.damp x hL _ _,
    sideStep_banks hE v.fb v.damp x hR' _ _⟩
  all_goals rw [keeps]

/-! ### The comb (R236, R239) -/

/-- What a comb writes to its line, from its inputs and the values of its store. -/
def combWrites (fb : α) (xs stores : List α) : List α := List.zipWith (fun x store => x + store * fb) xs stores

section
variable [IsStrictOrderedRing α] {N : Num α}

@[simp] theorem length_lpOutputs (a y1 : α) (xs : List α) : (lpOutputs N a y1 xs).length = xs.length := by
  induction xs generalizing y1 with
  | nil => rfl
  | cons x xs ih => exact congrArg (· + 1) (ih _)

@[simp] theorem length_combOutputs (len : Nat) (fb damp : α) (c : Comb α) (xs : List α) :
    (combOutputs N len fb damp c xs).length = xs.length := by
  induction xs generalizing c with
  | nil => rfl
  | cons x xs ih => exact congrArg (· + 1) (ih _)

variable (hE : ExactNum N)
include hE

/-- R236: the store is a low-pass of the output; the line takes the input and the store's share. -/
theorem combStep_exact (len : Nat) (c : Comb α) (x fb damp : α) :
    c.step N len x fb damp = (lineRead c.buf c.i,
      ⟨lineWrite c.buf c.i (x + lpStep N (1 - damp) c.store (lineRead c.buf c.i) * fb), (c.i + 1) % len,
        lpStep N (1 - damp) c.store (lineRead c.buf c.i)⟩) := by
  have store : lineRead c.buf c.i * (1 - damp) + c.store * damp = lpStep N (1 - damp) c.store (lineRead c.buf c.i) := by
    rw [lpStep_exact hE]
    ring
  simp only [Comb.step, add_exact hE, sub_exact hE, mul_exact hE, store]

/-- R236: the outputs are what the line reads, the store being a low-pass of them. -/
theorem combOutputs_eq (len : Nat) (fb damp : α) (c : Comb α) (xs : List α) :
    combOutputs N len fb damp c xs
      = lineReads len c.buf c.i (combWrites fb xs (lpOutputs N (1 - damp) c.store (combOutputs N len fb damp c xs))) := by
  induction xs generalizing c with
  | nil => rfl
  | cons x xs ih =>
    have tail := ih (c.step N len x fb damp).2
    simp only [combStep_exact hE] at tail
    simp only [combOutputs, combStep_exact hE, lpOutputs, combWrites, List.zipWith_cons_cons, lineReads]
    exact congrArg _ tail

theorem combOutputs_cleared {len : Nat} (hlen : 0 < len) (fb damp : α) {xs outs : List α}
    (houts : outs = combOutputs N len fb damp Comb.cleared xs) {k : Nat} (hk : k < xs.length) :
    outs[k]? = some (if k < len then 0
      else xs.getD (k - len) 0 + fb * (lpOutputs N (1 - damp) 0 outs).getD (k - len) 0) := by
  have stores_length : (lpOutputs N (1 - damp) 0 outs).length = xs.length := by rw [length_lpOutputs, houts, length_combOutputs]
  have outs_eq : outs = lineReads len [] 0 (combWrites fb xs (lpOutputs N (1 - damp) 0 outs)) := by
    rw [houts]
    exact combOutputs_eq hE len fb damp Comb.cleared xs
  have read := lineReads_cleared (ws := combWrites fb xs (lpOutputs N (1 - damp) 0 outs)) hlen (k := k)
    (by simp [combWrites, stores_length, hk])
  rw [← outs_eq] at read
  rw [read]
  refine congrArg some ?_
  split
  · rfl
  · have older : k - len < xs.length := by omega
    rw [combWrites, getD_zipWith _ older (stores_length ▸ older), mul_comm fb]

/-- R239: a step of a comb keeps the fixed point of `B = M + fb * B` as a bound on what it stores. -/
theorem comb_step_bounded (len : Nat) {fb damp M x : α} (fb_nonneg : 0 ≤ fb) (fb_lt : fb < 1) (damp_nonneg : 0 ≤ damp)
    (damp_lt : damp < 1) (hx : |x| ≤ M) {c : Comb α} (h : c.In (|·| ≤ M / (1 - fb))) :
    |(c.step N len x fb damp).1| ≤ M / (1 - fb) ∧ (c.step N len x fb damp).2.In (|·| ≤ M / (1 - fb)) := by
  obtain ⟨store, line⟩ := h
  have room : (1 : α) - fb ≠ 0 := (sub_pos.2 fb_lt).ne'
  have out : |lineRead c.buf c.i| ≤ M / (1 - fb) :=
    lineRead_in (V := (|·| ≤ M / (1 - fb))) (abs_zero.trans_le ((abs_nonneg _).trans store)) line c.i
  have next : |lpStep N (1 - damp) c.store (lineRead c.buf c.i)| ≤ M / (1 - fb) :=
    abs_lpStep_le hE (sub_nonneg.2 damp_lt.le) (sub_le_self 1 damp_nonneg) out store
  have written : |x + lpStep N (1 - damp) c.store (lineRead c.buf c.i) * fb| ≤ M / (1 - fb) :=
    calc _ ≤ |x| + |lpStep N (1 - damp) c.store (lineRead c.buf c.i)| * fb := by
          rw [← abs_of_nonneg fb_nonneg, ← abs_mul, abs_of_nonneg fb_nonneg]
          exact abs_add_le _ _
      _ ≤ M + M / (1 - fb) * fb := add_le_add hx (mul_le_mul_of_nonneg_right next fb_nonneg)
      _ = M / (1 - fb) := by field_simp; ring
  rw [combStep_exact hE]
  exact ⟨out, next, Line.in_write _ line written⟩

/-- R239: a comb that stores bounded values answers bounded input with bounded output. -/
theorem abs_combOutputs_le (len : Nat) {fb damp M : α} (fb_nonneg : 0 ≤ fb) (fb_lt : fb < 1) (damp_nonneg : 0 ≤ damp)
    (damp_lt : damp < 1) {xs : List α} (hxs : ∀ x ∈ xs, |x| ≤ M) {c : Comb α} (h : c.In (|·| ≤ M / (1 - fb))) :
    ∀ y ∈ combOutputs N len fb damp c xs, |y| ≤ M / (1 - fb) := by
  induction xs generalizing c with
  | nil => exact fun _ h => nomatch h
  | cons x xs ih =>
    obtain ⟨hx, hxs⟩ := List.forall_mem_cons.1 hxs
    obtain ⟨out, next⟩ := comb_step_bounded hE len fb_nonneg fb_lt damp_nonneg damp_lt hx h
    exact List.forall_mem_cons.2 ⟨out, ih hxs next⟩

end

/-- Settles O56: the lines of a comb and of an all-pass answer what was written `len` calls ago, a comb's step keeps a bound, and the banks
of a side are the filters in parallel and in series. -/
theorem combsAndAllPassesFollowTheirRules : Obligations.CombsAndAllPassesFollowTheirRules := by
  unfold Obligations.CombsAndAllPassesFollowTheirRules
  intro α _ _ _ _ P hE
  refine ⟨fun len fb damp xs outs hlen houts => ⟨fun k hk => combOutputs_cleared hE hlen fb damp houts hk, ?stable⟩,
    fun len xs outs hlen houts k hk => allPassOutputs_cleared hE hlen houts hk, fun v s hL hR => ?reverb⟩
  case stable =>
    intro M fb_nonneg fb_lt damp_nonneg damp_lt hxs
    obtain rfl | bound := eq_nil_or_bound_nonneg hxs
    · subst houts
      exact fun _ h => nomatch h
    · have zero : |(0 : α)| ≤ M / (1 - fb) := abs_zero.trans_le (div_nonneg bound (sub_pos.2 fb_lt).le)
      rw [houts]
      exact abs_combOutputs_le hE len fb_nonneg fb_lt damp_nonneg damp_lt hxs ⟨zero, Line.in_nil⟩
  case reverb =>
    obtain ⟨x, yl, yr, v', wet, delayed, depth, fb, damp, left, right⟩ := reverb_wet_sides hE v s hL hR
    exact ⟨x, yl, yr, v', wet, delayed, depth, fb, damp, fun _ _ _ => ⟨left, right⟩⟩

end Sys2Proof.Machine
end

section
/-! O26: the reverb's coefficients (43_reverb.md R238, R239, 42_chorus_echo.md R202). In exact arithmetic the exponent of REV_FEEDBACK is a
straight line in the reverberance, from `ln 0.7` at 0 to `ln 0.02` at 100, so between the ends the feedback keeps away from 0.3 and 0.98 by
more than the error of the running machine's functions (log 1). -/

namespace Sys2Proof

set_option linter.unusedSectionVars false

/-! ### The laws in exact arithmetic (R238) -/

section
variable {α : Type} [Field α] [LinearOrder α] [IsStrictOrderedRing α] [FloorRing α] {N : Num α}

theorem revFeedback_exact (hE : ExactNum N) (hlt : N.lnFn (2 / 100) < N.lnFn (7 / 10)) (hneg : N.lnFn (7 / 10) < 0) (R : α) :
    Config.revFeedback N R = 1 - N.expFn (N.lnFn (7 / 10) + R / 100 * (N.lnFn (2 / 100) - N.lnFn (7 / 10))) := by
  have hr : ∀ x, N.rnd x = x := hE
  simp only [Config.revFeedback, hr]
  congr 2
  generalize N.lnFn (7 / 10) = low at hlt hneg ⊢
  generalize N.lnFn (2 / 100) = high at hlt hneg ⊢
  have low_ne : low ≠ 0 := hneg.ne
  have gap_ne : low - high ≠ 0 := (sub_pos.2 hlt).ne'
  have gap : high * (-1 / low) + 1 = (low - high) / low := by field_simp; ring
  rw [gap]
  field_simp
  ring

theorem revDamp_exact (hE : ExactNum N) (R : α) : Config.revDamp N R = 2 / 10 + 3 / 10 * R / 100 := by
  have hr : ∀ x, N.rnd x = x := hE
  simp only [Config.revDamp, hr]

end

theorem revDamp_default (R : ℚ) : Config.params.revDamp R = 2 / 10 + 3 / 10 * R / 100 := revDamp_exact exactNum_exact R

/-- R202: the reverberances of the depths 1 to 127. -/
theorem reverberance_of_depth_mem {d : BitVec 7} (hd : d ≠ 0) :
    100 / 127 ≤ (d.toNat : ℚ) * 100 / 127 ∧ (d.toNat : ℚ) * 100 / 127 ≤ 100 := by
  have one_le : 1 ≤ d.toNat := Nat.one_le_iff_ne_zero.2 fun e => hd (BitVec.eq_of_toNat_eq e)
  have low : (1 : ℚ) ≤ d.toNat := by exact_mod_cast one_le
  have high : (d.toNat : ℚ) ≤ 127 := by exact_mod_cast Nat.le_of_lt_succ d.isLt
  constructor <;> linarith

/-- R238, R239: REV_DAMP lies in (0.2, 0.5] at every reverberance above 0. -/
theorem revDamp_default_mem {R : ℚ} (h0 : 0 < R) (h100 : R ≤ 100) :
    2 / 10 < Config.params.revDamp R ∧ Config.params.revDamp R ≤ 5 / 10 := by
  rw [revDamp_default]
  constructor <;> linarith

/-! ### The feedback of the running machine (R238, R239, log 1) -/

namespace Numeric

/-- Where the exponent keeps away from a logarithm, the machine's power keeps on the same side of the number. -/
theorem exp_lt_of_le_log_sub {x q : ℚ} (hq : 0 < q) (hx : |x| ≤ 1000) (h : (x : ℝ) ≤ Real.log q - 1 / 200) : exp x < q := by
  have hq' : (0 : ℝ) < q := by exact_mod_cast hq
  have step : Real.exp (-(1 / 200)) ≤ 200 / 201 := by
    rw [Real.exp_neg, inv_le_comm₀ (Real.exp_pos _) (by norm_num)]
    linarith [Real.add_one_le_exp (1 / 200 : ℝ)]
  have true_value : Real.exp x ≤ q * (200 / 201) :=
    calc Real.exp x ≤ Real.exp (Real.log q + -(1 / 200)) := Real.exp_le_exp.2 (by linarith)
      _ = q * Real.exp (-(1 / 200)) := by rw [Real.exp_add, Real.exp_log hq']
      _ ≤ q * (200 / 201) := mul_le_mul_of_nonneg_left step hq'.le
  have near := (abs_le.1 (abs_exp_sub_le hx)).2
  have : (exp x : ℝ) < q := by linarith
  exact_mod_cast this

theorem lt_exp_of_log_add_le {x q : ℚ} (hq : 0 < q) (hx : |x| ≤ 1000) (h : Real.log q + 1 / 200 ≤ x) : q < exp x := by
  have hq' : (0 : ℝ) < q := by exact_mod_cast hq
  have step : (201 / 200 : ℝ) ≤ Real.exp (1 / 200) := by linarith [Real.add_one_le_exp (1 / 200 : ℝ)]
  have true_value : q * (201 / 200) ≤ Real.exp x :=
    calc q * (201 / 200) ≤ q * Real.exp (1 / 200) := mul_le_mul_of_nonneg_left step hq'.le
      _ = Real.exp (Real.log q + 1 / 200) := by rw [Real.exp_add, Real.exp_log hq']
      _ ≤ Real.exp x := Real.exp_le_exp.2 h
  have near := (abs_le.1 (abs_exp_sub_le hx)).1
  have : (q : ℝ) < exp x := by linarith
  exact_mod_cast this

/-- The machine's two logarithms of R238 are near the true ones, which are not far from 0 and lie apart. -/
theorem ln_ends :
    |(ln (7 / 10) : ℝ) - Real.log (7 / 10)| ≤ 1 / 10 ^ 10 ∧ |(ln (2 / 100) : ℝ) - Real.log (2 / 100)| ≤ 1 / 10 ^ 10
      ∧ -49 ≤ Real.log (2 / 100) ∧ Real.log (2 / 100) + 9 / 10 ≤ Real.log (7 / 10) := by
  have near_two := abs_ln_sub_log_le (x := 2 / 100) (by norm_num)
  have near_seven := abs_ln_sub_log_le (x := 7 / 10) (by norm_num)
  push_cast at near_two near_seven
  have two_low := Real.one_sub_inv_le_log_of_pos (show (0 : ℝ) < 2 / 100 by norm_num)
  have seven_high := Real.log_le_sub_one_of_pos (show (0 : ℝ) < 7 / 10 by norm_num)
  have apart := Real.log_le_sub_one_of_pos (show (0 : ℝ) < 2 / 100 / (7 / 10) by norm_num)
  rw [Real.log_div (by norm_num) (by norm_num)] at apart
  norm_num only at two_low seven_high apart
  norm_num only at near_two near_seven ⊢
  rw [abs_of_neg (by linarith : Real.log (1 / 50) < 0)] at near_two
  rw [abs_of_neg (by linarith : Real.log (7 / 10) < 0)] at near_seven
  exact ⟨near_seven.trans (by linarith), near_two.trans (by linarith), by linarith, by linarith⟩

theorem ln_apart : (ln (2 / 100) : ℝ) - ln (7 / 10) ≤ -(8 / 10) := by
  obtain ⟨near_seven, near_two, -, apart⟩ := ln_ends
  linarith [(abs_le.1 near_seven).1, (abs_le.1 near_two).2]

end Numeric

/-- R238: the exponent of REV_FEEDBACK at a reverberance, as the running machine computes it. -/
def feedbackExponent (R : ℚ) : ℚ := Numeric.ln (7 / 10) + R / 100 * (Numeric.ln (2 / 100) - Numeric.ln (7 / 10))

theorem revFeedback_default (R : ℚ) : Config.params.revFeedback R = 1 - Numeric.exp (feedbackExponent R) :=
  revFeedback_exact exactNum_exact Numeric.ln_order.1 Numeric.ln_order.2 R

/-- R238: away from the reverberance 0 the exponent keeps below `ln 0.7`. -/
theorem feedbackExponent_le {R : ℚ} (hR : 100 / 127 ≤ R) : (feedbackExponent R : ℝ) ≤ Real.log (7 / 10) - 1 / 200 := by
  obtain ⟨near, -⟩ := Numeric.ln_ends
  rw [abs_le] at near
  have slope := Numeric.ln_apart
  have hR' := (Rat.cast_le (K := ℝ)).2 hR
  unfold feedbackExponent
  push_cast at hR' ⊢
  nlinarith

/-- R238: away from the reverberance 100 the exponent keeps above `ln 0.02`. -/
theorem le_feedbackExponent {R : ℚ} (hR : R ≤ 12600 / 127) : Real.log (2 / 100) + 1 / 200 ≤ feedbackExponent R := by
  obtain ⟨-, near, -⟩ := Numeric.ln_ends
  rw [abs_le] at near
  have slope := Numeric.ln_apart
  have hR' := (Rat.cast_le (K := ℝ)).2 hR
  unfold feedbackExponent
  push_cast at hR' ⊢
  nlinarith

/-- A percentage of the way between the two logarithms lies between them, inside the range the machine's power is accurate in. -/
theorem abs_feedbackExponent_le {R : ℚ} (h0 : 0 ≤ R) (h100 : R ≤ 100) : |feedbackExponent R| ≤ 1000 := by
  obtain ⟨-, near_two, low, -⟩ := Numeric.ln_ends
  obtain ⟨order, neg⟩ := Numeric.ln_order
  have low' : (-50 : ℚ) ≤ Numeric.ln (2 / 100) := by
    have := (abs_le.1 near_two).1
    have : (-50 : ℝ) ≤ Numeric.ln (2 / 100) := by linarith
    exact_mod_cast this
  rw [feedbackExponent, abs_le]
  constructor <;> nlinarith

/-- R238: the machine's REV_FEEDBACK at the depths of the table. -/
theorem revFeedback_default_table : Config.params.revFeedback 100 ≤ 98 / 100
    ∧ |Config.params.revFeedback (100 / 127) - 3193246491 / 10 ^ 10| ≤ 1 / 10 ^ 10
    ∧ |Config.params.revFeedback (6400 / 127) - 8833230656 / 10 ^ 10| ≤ 1 / 10 ^ 10
    ∧ |Config.params.revFeedback 100 - 98 / 100| ≤ 1 / 10 ^ 10 := by
  decide +kernel

/-- R239: REV_FEEDBACK lies in (0.3, 0.98] at the reverberances of the depths 1 to 127. At the last, where the law is 0.98 itself, it is
the machine's value in the table that decides. -/
theorem revFeedback_default_mem {d : BitVec 7} (hd : d ≠ 0) :
    3 / 10 < Config.params.revFeedback ((d.toNat : ℚ) * 100 / 127)
      ∧ Config.params.revFeedback ((d.toNat : ℚ) * 100 / 127) ≤ 98 / 100 := by
  obtain ⟨low, high⟩ := reverberance_of_depth_mem hd
  have range := abs_feedbackExponent_le (le_trans (by norm_num) low) high
  constructor
  · have below := Numeric.exp_lt_of_le_log_sub (q := 7 / 10) (by norm_num) range (by simpa using feedbackExponent_le low)
    rw [revFeedback_default]
    linarith
  · by_cases last : d.toNat = 127
    · rw [last, show ((127 : ℕ) : ℚ) * 100 / 127 = 100 by norm_num]
      exact revFeedback_default_table.1
    · have before : (d.toNat : ℚ) ≤ 126 := by exact_mod_cast show d.toNat ≤ 126 by omega
      have above := Numeric.lt_exp_of_log_add_le (q := 2 / 100) (by norm_num) range
        (by simpa using le_feedbackExponent (by linarith : (d.toNat : ℚ) * 100 / 127 ≤ 12600 / 127))
      rw [revFeedback_default]
      linarith

/-- Settles O26: the check of the record, the ranges of R239 between the ends of the table, and the table. -/
theorem reverbCoefficientsAreStable : Obligations.ReverbCoefficientsAreStable := by
  unfold Obligations.ReverbCoefficientsAreStable
  refine ⟨?checked, ?ranges, ?table⟩
  case checked =>
    intro α _ _ _ _ P v hP on
    rw [Machine.coefficients_eq, if_neg on, if_neg on]
    exact reverb_coefficients_mem hP on
  case ranges =>
    intro d hd
    obtain ⟨low, high⟩ := reverberance_of_depth_mem hd
    obtain ⟨fb_low, fb_high⟩ := revFeedback_default_mem hd
    obtain ⟨damp_low, damp_high⟩ := revDamp_default_mem (lt_of_lt_of_le (by norm_num) low) high
    exact ⟨fb_low, fb_high, damp_low, damp_high⟩
  case table =>
    obtain ⟨-, first, middle, last⟩ := revFeedback_default_table
    refine ⟨first, middle, last, ?_, ?_, ?_⟩
    · rw [revDamp_default, abs_le]; norm_num
    · rw [revDamp_default, abs_le]; norm_num
    · rw [revDamp_default]; norm_num

end Sys2Proof
end

section
/-! O27 to O32: the channel commands (44_channel_commands.md). On a channel that exists each command is one function of that channel
alone; the functions are then the spec's, by the searches of NOTEON, NOTEOFF and PBEND and the register file of WRCH. -/

namespace Sys2Proof.Machine

set_option linter.unusedSectionVars false

variable {α : Type} [Field α] [LinearOrder α] [FloorRing α]

/-! ### A command on a channel that exists, and on one that does not (30_encoding.md R112) -/

theorem onChannel_of_some {s : State α} {c : Nat} {ch : Channel α} (there : s.channels[c]? = some ch) (f : Channel α → Channel α) :
    s.onChannel c f = s.setChannel c (f ch) := by
  rw [State.onChannel, State.channel?, there]

theorem setChannel_self {s : State α} {c : Nat} {ch : Channel α} (there : s.channels[c]? = some ch) : s.setChannel c ch = s := by
  obtain ⟨_, rfl⟩ := List.getElem?_eq_some_iff.1 there
  rw [State.setChannel, List.set_getElem_self]

theorem exec_of_not_wellFormed {i : Instr} (s : State) (h : i.wellFormed Config.params = false) : exec i s = .next s := by
  rw [exec_eq_next_commandOp, commandOp_of_not_wellFormed s h]

theorem params_hasChannel_eq_false {c : BitVec 8} (h : 16 ≤ c.toNat) : Config.params.hasChannel c = false :=
  decide_eq_false h.not_gt

section
variable {c : BitVec 8} {s : State} {ch : Channel Rat} (hc : c.toNat < 16) (there : s.channels[c.toNat]? = some ch)
include hc there

theorem exec_noteon_of_channel (p : BitVec 7) {v : BitVec 7} (hv : v ≠ 0) :
    exec (.noteon c p v) s = .next (s.setChannel c.toNat (ch.allocate Config.params s.wd p v)) := by
  rw [exec_eq_next_commandOp, commandOp, noteOnOp, if_pos (by exact hc), if_neg hv, onChannel_of_some there]

theorem exec_noteoff_of_channel (p v : BitVec 7) :
    exec (.noteoff c p v) s = .next (s.setChannel c.toNat (ch.noteOff Config.params p v.toNat)) := by
  rw [exec_eq_next_commandOp, commandOp, noteOffOp, if_pos (by exact hc), onChannel_of_some there]

theorem exec_pbend_of_channel (lsb msb : BitVec 7) :
    exec (.pbend c lsb msb) s = .next (s.setChannel c.toNat (ch.pitchBend Config.params lsb msb)) := by
  rw [exec_eq_next_commandOp, commandOp, pitchBendOp, if_pos (by exact hc), onChannel_of_some there]

theorem exec_wrch_of_channel (idx : BitVec 8) (data : Word) :
    exec (.wrch c idx data) s = .next (s.setChannel c.toNat (ch.write idx data)) := by
  rw [exec_eq_next_commandOp, commandOp, writeChannelOp, if_pos (by exact hc), onChannel_of_some there]

end

/-! ### The search for a descriptor (R252) -/

theorem covers_iff (ch : Channel α) (p : BitVec 7) (x : Descriptor) : x.covers ch p = true ↔ DescriptorMatches ch p x := by
  simp only [Descriptor.covers, flag, Bool.and_eq_true, decide_eq_true_eq, beq_iff_eq, and_assoc]

theorem findDescriptor_eq_none {wd : List Descriptor} {ch : Channel α} {p : BitVec 7} (h : ∀ x ∈ wd, ¬ DescriptorMatches ch p x) :
    findDescriptor wd ch p = none :=
  List.find?_eq_none.2 fun x hx => (covers_iff ch p x).not.2 (h x hx)

theorem findDescriptor_eq_lowest {before after : List Descriptor} {d : Descriptor} {ch : Channel α} {p : BitVec 7}
    (lower : ∀ x ∈ before, ¬ DescriptorMatches ch p x) (h : DescriptorMatches ch p d) :
    findDescriptor (before ++ d :: after) ch p = some d := by
  have skipped : findDescriptor before ch p = none := findDescriptor_eq_none lower
  rw [findDescriptor] at skipped ⊢
  rw [List.find?_append, skipped, Option.none_or, List.find?_cons_of_pos ((covers_iff ch p d).2 h)]

/-! ### The tone of a new voice (R250, R251, R253) -/

section
variable (P : Params α) (wd : List Descriptor) {ch : Channel α} (p : BitVec 7)

theorem newTone_of_piano (h : ch.variant = 0) : newTone P wd ch p = some .piano := by
  rw [newTone, h]; rfl

theorem newTone_of_square (h : ch.variant = 1) : newTone P wd ch p = some (.square (newFilter P ch p)) := by
  rw [newTone, h]; rfl

theorem newTone_of_triangle (h : ch.variant = 2) : newTone P wd ch p = some (.triangle (newFilter P ch p)) := by
  rw [newTone, h]; rfl

theorem newTone_of_sampled (h : ch.variant = 3) :
    newTone P wd ch p = (findDescriptor wd ch p).map fun d => .sampled (newSample P d) := by
  rw [newTone, h]; rfl

end

theorem variant_cases : ∀ n : BitVec 2, n ≠ 3 → n = 0 ∨ n = 1 ∨ n = 2 := by decide

/-- R253 in the default build (log 1, log 2): the coefficients of a new voice's filters come from the channel's registers and the key, and
the filters start at rest. -/
def DefaultFilter (ch : Channel Rat) (p : BitVec 7) (f : VoiceFilter Rat) : Prop :=
  f.lpA = lpCoef Config.params ((ch.cutoff.toNat : Rat) * 44100 / 256)
    ∧ (⟨f.bpA, f.bpB, f.bpC⟩ : BandCoef Rat) =
      bpCoef Config.params (440 * Numeric.exp2 (((p.toNat : Rat) - 69) / 12)) (8 * (128 - (ch.resonance.toNat : Rat))) .pitched
    ∧ f.lpY1 = 0 ∧ f.bpY1 = 0 ∧ f.bpY2 = 0

theorem newFilter_default (ch : Channel Rat) (p : BitVec 7) : DefaultFilter ch p (newFilter Config.params ch p) :=
  ⟨rfl, rfl, rfl, rfl, rfl⟩

/-- R250, R253: the tone of a new voice on a channel that is not Sampled, by the channel's variant. -/
theorem newTone_of_procedural (wd : List Descriptor) {ch : Channel Rat} (p : BitVec 7) (h : ch.variant ≠ 3) :
    ∃ tone, newTone Config.params wd ch p = some tone
      ∧ (ch.variant = 0 → tone = .piano) ∧ (ch.variant = 1 → ∃ f, tone = .square f) ∧ (ch.variant = 2 → ∃ f, tone = .triangle f)
      ∧ ∀ f, tone = .square f ∨ tone = .triangle f → DefaultFilter ch p f := by
  have filter := newFilter_default ch p
  rcases variant_cases ch.variant h with piano | square | triangle
  · exact ⟨_, newTone_of_piano _ wd p piano, by simp [piano]⟩
  · exact ⟨_, newTone_of_square _ wd p square, by simp [square, filter]⟩
  · exact ⟨_, newTone_of_triangle _ wd p triangle, by simp [triangle, filter]⟩

/-! ### The glide of a new voice (R254) -/

/-- The glide of the default build is that of R254: it starts where there is a last key, another one than the new, portamento is on, and
PORTA_TIME is not 0. -/
theorem newGlide_default (ch : Channel Rat) (p : BitVec 7) :
    GlideFields ch p (newGlide Config.params ch p).1 (newGlide Config.params ch p).2.1 (newGlide Config.params ch p).2.2 := by
  unfold newGlide
  dsimp only
  split
  · next noLast => exact ⟨fun q ⟨_, last, _⟩ => absurd (noLast.symm.trans last) nofun, fun _ => ⟨rfl, rfl, rfl⟩⟩
  · next q last =>
    have samples : 0 < Config.params.portaSamples ch.portaTime.toNat ↔ 0 < ch.portaTime.toNat := by
      rw [params_portaSamples]; omega
    split
    · next glides =>
      refine ⟨fun q' ⟨_, last', _⟩ => ?_, fun still => absurd ⟨glides.1, last, glides.2.1, samples.1 glides.2.2⟩ (still q)⟩
      cases last.symm.trans last'
      exact ⟨rfl, rfl, rfl⟩
    · next still =>
      refine ⟨fun q' ⟨on, last', other, time⟩ => ?_, fun _ => ⟨rfl, rfl, rfl⟩⟩
      cases last.symm.trans last'
      exact absurd ⟨on, other, samples.2 time⟩ still

/-! ### NOTEON -/

/-- R251: the voice NOTEON makes is the fresh voice of R251 with the glide of R254. -/
theorem newVoice_eq_freshVoice (P : Params α) (ch : Channel α) (p v : BitVec 7) (tone : Tone α) :
    newVoice P ch p v tone =
      freshVoice ch p v tone (newGlide P ch p).1 (newGlide P ch p).2.1 (newGlide P ch p).2.2 := rfl

theorem allocate_of_tone {P : Params α} {wd : List Descriptor} {ch : Channel α} {p : BitVec 7} (v : BitVec 7) {tone : Tone α}
    (free : ch.nv < P.maxPoly) (h : newTone P wd ch p = some tone) :
    ch.allocate P wd p v = { ch with voices := ch.voices ++ [newVoice P ch p v tone], lastPitch := some p } := by
  rw [Channel.allocate, if_neg free.not_ge, h]

/-- R341, conditions X1 and X2: a full channel, or no descriptor for the key. -/
theorem allocate_eq_self {P : Params α} {wd : List Descriptor} {ch : Channel α} {p : BitVec 7} (v : BitVec 7)
    (h : P.maxPoly ≤ ch.nv ∨ newTone P wd ch p = none) : ch.allocate P wd p v = ch := by
  unfold Channel.allocate
  split
  · rfl
  · next free => rw [h.resolve_left free]

/-- Settles O27: the tone of the channel's variant and the glide of R254 in the fresh voice. -/
theorem noteonAllocatesAProceduralVoice : Obligations.NoteonAllocatesAProceduralVoice := by
  unfold Obligations.NoteonAllocatesAProceduralVoice
  intro c p v s ch hc there hv free procedural
  obtain ⟨tone, htone, piano, square, triangle, filter⟩ := newTone_of_procedural s.wd p procedural
  refine ⟨tone, _, _, _, ?_, newGlide_default ch p, piano, square, triangle, filter⟩
  rw [exec_noteon_of_channel hc there p hv, allocate_of_tone v free htone, newVoice_eq_freshVoice]

/-- Settles O28: the search takes the lowest descriptor that covers the key, and the sample state copies it. -/
theorem noteonAllocatesASampledVoice : Obligations.NoteonAllocatesASampledVoice := by
  unfold Obligations.NoteonAllocatesASampledVoice
  intro c p v s ch before d after hc there hv free sampled table lower covers
  have tone : newTone Config.params s.wd ch p = some (.sampled (newSample Config.params d)) := by
    rw [newTone_of_sampled _ _ p sampled, table, findDescriptor_eq_lowest lower covers, Option.map_some]
  refine ⟨_, _, _, newGlide_default ch p, ?_⟩
  rw [exec_noteon_of_channel hc there p hv, allocate_of_tone v free tone, newVoice_eq_freshVoice]
  rfl

/-- Settles O29: velocity 0 takes the branch of NOTEOFF before the polyphony cap is looked at (R346), and a note without a slot or a
descriptor leaves its channel as it is. -/
theorem noteonIsDroppedOrReleases : Obligations.NoteonIsDroppedOrReleases := by
  unfold Obligations.NoteonIsDroppedOrReleases
  have absent (c : BitVec 8) (p v : BitVec 7) (s : State) (hc : 16 ≤ c.toNat) : exec (.noteon c p v) s = .next s :=
    exec_of_not_wellFormed s (params_hasChannel_eq_false hc)
  refine ⟨fun c p s => ?_, absent, fun c p v s ch there hv dropped => ?_⟩
  · rcases lt_or_ge c.toNat 16 with hc | hc
    · rw [exec_eq_next_commandOp, exec_eq_next_commandOp, commandOp, noteOnOp, if_pos (by exact hc), if_pos rfl, commandOp]
    · rw [absent c p 0 s hc, exec_of_not_wellFormed (i := .noteoff c p 0) s (params_hasChannel_eq_false hc)]
  · rcases lt_or_ge c.toNat 16 with hc | hc
    · have unchanged : ch.allocate Config.params s.wd p v = ch :=
        allocate_eq_self v <| dropped.imp_right fun ⟨sampled, uncovered⟩ => by
          rw [newTone_of_sampled _ _ p sampled, findDescriptor_eq_none uncovered, Option.map_none]
      rw [exec_noteon_of_channel hc there p hv, unchanged, setChannel_self there]
    · exact absent c p v s hc

/-! ### NOTEOFF (R255) -/

theorem alwaysSustain_eq_true {t : Voice α} (h : ∃ q, t.tone = .sampled q ∧ q.wAlways = true) : t.alwaysSustain = true := by
  obtain ⟨q, tone, always⟩ := h
  rw [Voice.alwaysSustain, tone]
  exact always

theorem variant_eq_piano_iff (tone : Tone α) : tone.variant = .piano ↔ tone = .piano := by
  cases tone <;> simp [Tone.variant]

/-- R255 in the default build (log 2): a voice put into release. -/
theorem release_default (t : Voice Rat) (vel : Nat) :
    t.release Config.params vel =
      { t with
        rel := true, relOnce := true, relTotal := Config.relLen t.tone.variant vel
        relLeft :=
          if t.tone = .piano ∧ 44100 * (143 - t.key.toNat) / 16 ≤ t.age then 0 else Config.relLen t.tone.variant vel } := by
  simp only [Voice.release, releaseBudget, variant_eq_piano_iff, params_relLen, params_pianoDur, ge_iff_le]

/-- Settles O30, by the search of `releaseFirst`. -/
theorem noteoffReleasesTheLowestSlot : Obligations.NoteoffReleasesTheLowestSlot := by
  unfold Obligations.NoteoffReleasesTheLowestSlot
  refine ⟨fun c p v s hc => exec_of_not_wellFormed s (params_hasChannel_eq_false hc), fun c p v s ch hc there => ?_⟩
  rw [exec_noteoff_of_channel hc there, Channel.noteOff]
  refine ⟨fun silent => ?_, fun before t after slots lower holds => ?_⟩
  · rw [releaseFirst_none _ _ _ _ silent, setChannel_self there]
  · have found := releaseFirst_at Config.params p v.toNat before t after lower holds
    refine ⟨fun always => ?_, fun notAlways => ?_⟩
    · rw [slots, found, if_pos (alwaysSustain_eq_true always), ← slots, setChannel_self there]
    · rw [slots, found, alwaysSustain_eq_false notAlways, if_neg Bool.false_ne_true, release_default]

/-! ### PBEND (R258) -/

/-- R110: the bend value is the high operand times 128 and the low operand. -/
theorem bendValue_toNat (lsb msb : BitVec 7) : (bendValue lsb msb).toNat = 128 * msb.toNat + lsb.toNat := by
  rw [bendValue, BitVec.toNat_append, ← Nat.shiftLeft_add_eq_or_of_lt lsb.isLt, Nat.shiftLeft_eq, Nat.mul_comm]

theorem bendSemitones_exact {N : Num α} (hE : ExactNum N) (lsb msb range : BitVec 7) :
    bendSemitones N (bendValue lsb msb) range = ((128 * msb.toNat + lsb.toNat : α) - 8192) / 8192 * range.toNat := by
  rw [bendSemitones, mul_exact hE, div_exact hE, bendValue_toNat, natQ]
  push_cast
  rfl

/-- Settles O31: `bendLast` reaches the last slot, and in exact arithmetic the bend is that of R258. -/
theorem pbendBendsTheNewestVoice : Obligations.PbendBendsTheNewestVoice := by
  unfold Obligations.PbendBendsTheNewestVoice
  refine ⟨fun c lsb msb s hc => exec_of_not_wellFormed s (params_hasChannel_eq_false hc), fun c lsb msb s ch hc there => ?_⟩
  rw [exec_pbend_of_channel hc there, Channel.pitchBend]
  refine ⟨fun empty => ?_, fun before t slots => ?_⟩
  · rw [empty, bendLast, ← empty, setChannel_self there]
  · rw [slots, bendLast_append, params_num, bendSemitones_exact exactNum_exact]

/-! ### WRCH (R260, R43, R262) -/

theorem setWidth_lowBits (n : Nat) (data : Word) : (lowBits n data).setWidth 32 = BitVec.ofNat 32 (data.toNat % 2 ^ n) := by
  apply BitVec.eq_of_toNat_eq
  rw [lowBits, BitVec.toNat_setWidth, BitVec.toNat_setWidth, BitVec.toNat_ofNat]

/-- R262: the low bit of the data is the pedal's new position. -/
theorem flag_lowBits_one (data : Word) : flag (lowBits 1 data) = data.getLsbD 0 := by
  rw [lowBits, BitVec.setWidth_one]
  cases data.getLsbD 0 <;> rfl

theorem writeReg_of_le (ch : Channel α) {idx : Nat} (data : Word) (h : idx ≤ 0x11) : ∃ ch', ch.writeReg idx data = some ch' := by
  interval_cases idx <;> exact ⟨_, rfl⟩

/-- R43, R260: the register that is written reads back the low bits of the data. -/
theorem readReg_writeReg_self {ch ch' : Channel α} {idx : Nat} {data : Word} (e : ch.writeReg idx data = some ch') :
    ch'.readReg idx = BitVec.ofNat 32 (data.toNat % 2 ^ channelRegisterBits.getD idx 0) := by
  unfold Channel.writeReg at e
  split at e <;> cases e <;> exact setWidth_lowBits _ data

/-- R260: every other register reads as before. -/
theorem readReg_writeReg_ne {ch ch' : Channel α} {idx j : Nat} {data : Word} (e : ch.writeReg idx data = some ch') (h : j ≠ idx) :
    ch'.readReg j = ch.readReg j := by
  unfold Channel.writeReg at e
  split at e <;> cases e
  all_goals
    unfold Channel.readReg
    split <;> trivial

/-- R262: the side effect of SUSTAIN is in no register and leaves the number of voices as it is. -/
theorem readReg_applySustain (ch : Channel α) (j : Nat) : ch.applySustain.readReg j = ch.readReg j := by
  unfold Channel.readReg
  split
  case h_19 => exact congrArg (BitVec.ofNat 32) (List.length_map _)
  all_goals rfl

theorem readReg_write {ch ch' : Channel α} {idx : BitVec 8} {data : Word} (e : ch.writeReg idx.toNat data = some ch') (j : Nat) :
    (ch.write idx data).readReg j = ch'.readReg j := by
  rw [Channel.write, e]
  dsimp only
  split
  · exact readReg_applySustain ch' j
  · rfl

/-- R260, R262: the voices of a channel after a WRCH. -/
theorem write_voices_eq (ch : Channel α) (idx : BitVec 8) (data : Word) :
    (ch.write idx data).voices =
      if idx = 0x06 then ch.voices.map (fun t => t.pedal (data.getLsbD 0)) else ch.voices := by
  split
  · next sustain => rw [sustain, write_sustain_voices, flag_lowBits_one]
  · next other => exact write_voices ch idx data other

/-- Settles O32: the register file after a write, and the pedal on every voice where the register is SUSTAIN. -/
theorem wrchWritesOneRegister : Obligations.WrchWritesOneRegister := by
  unfold Obligations.WrchWritesOneRegister
  refine ⟨fun c idx data s absent => exec_of_not_wellFormed s ?_, fun c idx data s ch hc there writable => ?_⟩
  · exact Bool.and_eq_false_iff.2 (absent.imp params_hasChannel_eq_false fun high => decide_eq_false high.not_ge)
  · obtain ⟨written, e⟩ := writeReg_of_le ch data writable
    obtain ⟨lastPitch, peak⟩ := write_keeps ch idx data
    exact ⟨ch.write idx data, exec_wrch_of_channel hc there idx data, (readReg_write e _).trans (readReg_writeReg_self e),
      fun j other => (readReg_write e j).trans (readReg_writeReg_ne e other), lastPitch, peak, write_voices_eq ch idx data⟩

end Sys2Proof.Machine
end

section
/-! O40: the clipper (45_frame_mixer.md R289). It is the clamp followed by `trunc`, and both keep the order of their arguments. -/

namespace Sys2Proof.Machine

set_option linter.unusedSectionVars false

variable {α : Type} [Field α] [LinearOrder α] [IsStrictOrderedRing α] [FloorRing α]

/-! ### Dropping the fraction toward zero -/

theorem trunc_of_neg {x : α} (h : x < 0) : trunc x = ⌈x⌉ := if_pos h

theorem trunc_of_nonneg {x : α} (h : 0 ≤ x) : trunc x = ⌊x⌋ := if_neg h.not_gt

theorem trunc_mono {x y : α} (h : x ≤ y) : trunc x ≤ trunc y := by
  rcases lt_or_ge x 0 with hx | hx
  · rw [trunc_of_neg hx]
    rcases lt_or_ge y 0 with hy | hy
    · rw [trunc_of_neg hy]
      exact Int.ceil_mono h
    · rw [trunc_of_nonneg hy]
      have up : ⌈x⌉ ≤ 0 := Int.ceil_le.2 (by simpa using hx.le)
      exact up.trans (Int.floor_nonneg.2 hy)
  · rw [trunc_of_nonneg hx, trunc_of_nonneg (hx.trans h)]
    exact Int.floor_mono h

theorem trunc_intCast (n : Int) : trunc (n : α) = n := by
  unfold trunc
  split
  · exact Int.ceil_intCast n
  · exact Int.floor_intCast n

/-- R289: the fraction is dropped toward zero, on either side of it. -/
theorem abs_trunc (x : α) : |(trunc x : α)| ≤ |x| ∧ |x| < |(trunc x : α)| + 1 := by
  rcases lt_or_ge x 0 with hx | hx
  · have up : ((⌈x⌉ : Int) : α) ≤ 0 := by exact_mod_cast Int.ceil_le.2 (by simpa using hx.le)
    rw [trunc_of_neg hx, abs_of_neg hx, abs_of_nonpos up]
    exact ⟨neg_le_neg (Int.le_ceil x), by linarith [Int.ceil_lt_add_one x]⟩
  · have down : (0 : α) ≤ ((⌊x⌋ : Int) : α) := by exact_mod_cast Int.floor_nonneg.2 hx
    rw [trunc_of_nonneg hx, abs_of_nonneg hx, abs_of_nonneg down]
    exact ⟨Int.floor_le x, Int.lt_floor_add_one x⟩

/-! ### The clipper (R289) -/

theorem clamp_mono {lo hi x y : α} (h : lo ≤ hi) (hxy : x ≤ y) : clamp x lo hi ≤ clamp y lo hi := by
  rw [clamp_eq_max_min x h, clamp_eq_max_min y h]
  exact max_le_max_left lo (min_le_min_left hi hxy)

theorem toPcm_mono {y z : α} (h : y ≤ z) : toPcm y ≤ toPcm z := trunc_mono (clamp_mono (by norm_num) h)

theorem toPcm_of_mem {y : α} (low : -32768 ≤ y) (high : y ≤ 32767) : toPcm y = trunc y := by
  rw [toPcm, clamp_of_mem y _ _ low high]

/-- A sample passes the clipper unchanged. -/
theorem toPcm_intCast {n : Int} (low : -32768 ≤ n) (high : n ≤ 32767) : toPcm (n : α) = n := by
  rw [toPcm_of_mem (by exact_mod_cast low) (by exact_mod_cast high), trunc_intCast]

theorem toPcm_of_ge {y : α} (h : 32767 ≤ y) : toPcm y = 32767 := by
  have top : toPcm ((32767 : Int) : α) = 32767 := toPcm_intCast (by decide) (by decide)
  exact le_antisymm (toPcm_mem y).2 (top.symm.le.trans (toPcm_mono (by exact_mod_cast h)))

theorem toPcm_of_le {y : α} (h : y ≤ -32768) : toPcm y = -32768 := by
  have bottom : toPcm ((-32768 : Int) : α) = -32768 := toPcm_intCast (by decide) (by decide)
  exact le_antisymm ((toPcm_mono (by exact_mod_cast h)).trans bottom.le) (toPcm_mem y).1

/-- Settles O40: the three ranges of the clamp; the signs are the order against the sample 0. -/
theorem clipperSaturatesAndTruncates : Obligations.ClipperSaturatesAndTruncates := by
  unfold Obligations.ClipperSaturatesAndTruncates
  intro α _ _ _ _ y
  obtain ⟨low, high⟩ := toPcm_mem y
  have zero : toPcm (0 : α) = 0 := by simpa using toPcm_intCast (α := α) (n := 0) (by decide) (by decide)
  refine ⟨low, high, toPcm_of_ge, toPcm_of_le, fun hlow hhigh => ?_, fun nonneg => ?_, fun nonpos => ?_, fun z => toPcm_mono⟩
  · rw [toPcm_of_mem hlow hhigh]
    exact abs_trunc y
  · exact zero.symm.le.trans (toPcm_mono nonneg)
  · exact (toPcm_mono nonpos).trans zero.le

end Sys2Proof.Machine
end

section
/-! O34: what a FRAME emits and counts (45_frame_mixer.md R292, R293), whatever the mix is: the two samples come out of the clipper, and
their bytes, the counters and the output meters are functions of them. -/

namespace Sys2Proof.Machine

/-! ### The bytes of a frame (20_memory.md R74) -/

theorem u16_toNat (i : Int) : ((u16 i).toNat : Int) = i % 65536 := by
  rw [u16, BitVec.toNat_ofInt]
  omega

/-- R74: the two bytes of a sample, low byte first. -/
theorem isSample_u16 (i : Int) : IsSample ((u16 i).extractLsb' 0 8) ((u16 i).extractLsb' 8 8) i := by
  have value := u16_toNat i
  have bound : (u16 i).toNat < 65536 := (u16 i).isLt
  simp only [IsSample, BitVec.extractLsb'_toNat, Nat.shiftRight_eq_div_pow, Nat.reducePow]
  omega

/-! ### The counters (R293) -/

theorem wrapSucc_toNat (x : Word) : (wrapSucc x).toNat = (x.toNat + 1) % 2 ^ 32 := BitVec.toNat_add x 1

theorem satSucc_toNat (x : Word) : (satSucc x).toNat = min (x.toNat + 1) (2 ^ 32 - 1) := by
  unfold satSucc
  split
  · next last =>
    subst last
    rfl
  · next more => bv_omega

/-! ### The emission -/

/-- The running machine's FRAME is the one of the default build (log 2). -/
theorem exec_frame (s : State) : exec .frame s = .next (frameOp Config.params s) := exec_eq_next_commandOp .frame s

section
variable {α : Type} [Field α] [LinearOrder α] [FloorRing α]

/-- The samples a FRAME emits (R289, R292). -/
def State.samples (P : Params α) (s : State α) : Int × Int := frameOf P s.master (mixBlock P s).1

theorem frameOp_emits (P : Params α) (s : State α) :
    frameOp P s = ({ s with channels := (mixBlock P s).2.1, fx := (mixBlock P s).2.2 } : State α).emitFrame (s.samples P) :=
  frameOp_eq P s

theorem samples_mem [IsStrictOrderedRing α] (P : Params α) (s : State α) :
    (-32768 ≤ (s.samples P).1 ∧ (s.samples P).1 ≤ 32767) ∧ -32768 ≤ (s.samples P).2 ∧ (s.samples P).2 ≤ 32767 :=
  ⟨toPcm_mem _, toPcm_mem _⟩

theorem emitFrame_silenceCnt_toNat (s : State α) (o : Int × Int) :
    (s.emitFrame o).silenceCnt.toNat = if o.1 = 0 ∧ o.2 = 0 then min (s.silenceCnt.toNat + 1) (2 ^ 32 - 1) else 0 := by
  rw [emitFrame_silenceCnt]
  split
  · exact satSucc_toNat s.silenceCnt
  · rfl

end

/-- Settles O34: the emission of the two samples, and the fields a FRAME leaves alone. -/
theorem frameEmitsOneFrameAndCounts : Obligations.FrameEmitsOneFrameAndCounts := by
  unfold Obligations.FrameEmitsOneFrameAndCounts
  intro s
  obtain ⟨⟨lowL, highL⟩, lowR, highR⟩ := samples_mem Config.params s
  refine ⟨frameOp Config.params s, (s.samples Config.params).1, (s.samples Config.params).2, _, _, _, _, exec_frame s,
    lowL, highL, lowR, highR, frameOp_out _ s, isSample_u16 _, isSample_u16 _, ?counter, ?silence, ?peakL, ?peakR,
    frameOp_master _ s, frameOp_wptr _ s, frameOp_wd _ s, frameOp_wmem _ s, frameOp_stream _ s⟩
  case counter => rw [frameOp_frameCnt, wrapSucc_toNat]
  case silence => rw [frameOp_emits, emitFrame_silenceCnt_toNat]
  case peakL => rw [frameOp_emits, emitFrame_outPeakL]
  case peakR => rw [frameOp_emits, emitFrame_outPeakR]

end Sys2Proof.Machine
end

section
/-! O36, O38: a channel in a FRAME (45_frame_mixer.md R281 to R284, R290). The channel loop mixes every channel on its own, in every build;
in exact arithmetic the mix is the weighted sum of its voices' outputs. -/

namespace Sys2Proof.Machine

set_option linter.unusedSectionVars false

variable {α : Type} [Field α] [LinearOrder α] [IsStrictOrderedRing α] [FloorRing α] {P : Params α}

/-! ### Sums of stereo values -/

/-- In exact arithmetic accumulating one more value adds one term to the sum. -/
theorem stereoSum_add {N : Num α} (hE : ExactNum N) (xs : List (Stereo α)) (y : Stereo α) :
    (stereoSum xs).add N y = stereoSum (xs ++ [y]) := by
  simp [stereoSum, Stereo.add, add_exact hE]

theorem foldl_add_eq_stereoSum {N : Num α} (hE : ExactNum N) (xs : List (Stereo α)) :
    xs.foldl (fun acc o => acc.add N o) Stereo.zero = stereoSum xs := by
  rw [foldl_stereoAdd_exact hE (fun o => o), List.map_id']
  simp [Stereo.zero]

/-! ### The weighted mix (R282, R284) -/

theorem weight_exact (hE : ExactNum P.num) (ch : Channel α) (m : Stereo α) :
    ch.weight P m = ⟨m.l * (((ch.volume.toNat : α) / 127) * ((ch.expression.toNat : α) / 127)) * P.panL ch.pan.toNat,
      m.r * (((ch.volume.toNat : α) / 127) * ((ch.expression.toNat : α) / 127)) * P.panR ch.pan.toNat⟩ := by
  simp only [Channel.weight, per127, natQ, mul_exact hE, div_exact hE]

theorem mix_output (mem : WaveMem) (ch : Channel α) :
    (ch.mix P mem).1 = ch.weight P ((ch.outputs P mem).foldl (fun acc o => acc.add P.num o) Stereo.zero) :=
  congrArg (ch.weight P) (voicePass_sum P mem ch ch.voices Stereo.zero)

theorem mix_output_exact (hE : ExactNum P.num) (mem : WaveMem) (ch : Channel α) : (ch.mix P mem).1 = ch.weightedMix P mem := by
  rw [mix_output, foldl_add_eq_stereoSum hE, weight_exact hE]
  rfl

/-! ### The obligations -/

/-- Settles O36: the channel loop, channel by channel. -/
theorem frameAdvancesEveryVoiceOnce : Obligations.FrameAdvancesEveryVoiceOnce := by
  unfold Obligations.FrameAdvancesEveryVoiceOnce
  refine ⟨fun α _ _ _ _ P s hE => ?_, exec_frame⟩
  rw [frameOp_channels, mixBlock_channels]
  refine List.map_congr_left fun ch _ => ?_
  rw [mix_channel, mix_output_exact hE, chanPeak, absQ_eq_abs, absQ_eq_abs]
  rfl

/-- Settles O38: the channel loop is a map over the channels. -/
theorem channelsDoNotInfluenceEachOther : Obligations.ChannelsDoNotInfluenceEachOther := by
  unfold Obligations.ChannelsDoNotInfluenceEachOther
  intro α _ _ _ _ P s s' c sameChannel sameMemory
  rw [frameOp_channels, frameOp_channels, mixBlock_channels, mixBlock_channels, List.getElem?_map, List.getElem?_map, sameChannel,
    sameMemory]

end Sys2Proof.Machine
end

section
/-! O35, O39: the frame in closed form (45_frame_mixer.md R280, R284 to R289, R291). What the effect units become depends on their
buses alone, in every build. In exact arithmetic each bus is a sum whose terms are gathered in the order of the loops. -/

namespace Sys2Proof.Machine

set_option linter.unusedSectionVars false

variable {α : Type} [Field α] [LinearOrder α] [IsStrictOrderedRing α] [FloorRing α] {P : Params α}

/-! ### The units of one owner (R287) -/

theorem unitEnabled_iff (present : Bool) (depth : BitVec 7) : unitEnabled present depth = true ↔ present = true ∧ depth ≠ 0 := by
  rw [unitEnabled, Bool.and_eq_true, bne_iff_ne]

theorem depth_eq_zero_of_not_enabled {depth : BitVec 7} (h : ¬ unitEnabled true depth = true) : depth = 0 := by
  by_contra ne
  exact h ((unitEnabled_iff true depth).2 ⟨rfl, ne⟩)

theorem addChorus_unit (dry : Stereo α) (x : Chorus α) (s : Stereo α) : (addChorus P dry x s).2 = (x.process P s).2 := by
  unfold addChorus
  split
  · rfl
  · next disabled => rw [Chorus.process, if_pos (depth_eq_zero_of_not_enabled disabled)]

theorem addEcho_unit (dry : Stereo α) (x : Echo α) (s : Stereo α) :
    (addEcho P dry x s).2 = if P.hasEcho then (x.process P s).2 else x := by
  unfold addEcho
  cases P.hasEcho
  case false => rfl
  case true =>
    split
    · rfl
    · next disabled => rw [if_pos rfl, Echo.process, if_pos (depth_eq_zero_of_not_enabled disabled)]

theorem addReverb_unit (dry : Stereo α) (x : Reverb α) (s : Stereo α) : (addReverb P dry x s).2 = (x.process P s).2 := by
  unfold addReverb
  split
  · rfl
  · next disabled => rw [Reverb.process, if_pos (depth_eq_zero_of_not_enabled disabled)]

/-- What an owner's units become does not depend on the dry bus (R287). -/
theorem run_units (x : FxUnits α) (b : Buses α) (dry : Stereo α) : (x.run P b dry).2 = x.fedBy P b := by
  simp only [FxUnits.run, FxUnits.fedBy, addChorus_unit, addEcho_unit, addReverb_unit]

section
variable (hE : ExactNum P.num)
include hE

/-- The dry bus after a unit: its answer added if it is enabled, nothing otherwise. -/
theorem add_if_enabled (xs : List (Stereo α)) (present : Bool) (depth : BitVec 7) (answer : Stereo α) :
    (if unitEnabled present depth then (stereoSum xs).add P.num answer else stereoSum xs)
      = stereoSum (xs ++ [unitReturn present depth answer]) := by
  rw [unitReturn]
  simp only [unitEnabled_iff]
  split
  · exact stereoSum_add hE xs answer
  · simp [stereoSum]

theorem addChorus_bus (xs : List (Stereo α)) (x : Chorus α) (s : Stereo α) :
    (addChorus P (stereoSum xs) x s).1 = stereoSum (xs ++ [unitReturn true x.depth (x.process P s).1]) := by
  rw [← add_if_enabled hE, addChorus, apply_ite Prod.fst]

theorem addEcho_bus (xs : List (Stereo α)) (x : Echo α) (s : Stereo α) :
    (addEcho P (stereoSum xs) x s).1 = stereoSum (xs ++ [unitReturn P.hasEcho x.depth (x.process P s).1]) := by
  rw [← add_if_enabled hE, addEcho, apply_ite Prod.fst]

theorem addReverb_bus (xs : List (Stereo α)) (x : Reverb α) (s : Stereo α) :
    (addReverb P (stereoSum xs) x s).1 = stereoSum (xs ++ [unitReturn true x.depth (x.process P s).1]) := by
  rw [← add_if_enabled hE, addReverb, apply_ite Prod.fst]

/-- What an owner's units add to the dry bus, in the order chorus, echo, reverb (R287). -/
theorem run_bus (x : FxUnits α) (b : Buses α) (xs : List (Stereo α)) :
    (x.run P b (stereoSum xs)).1 = stereoSum (xs ++ x.returns P b) := by
  simp only [FxUnits.run, addChorus_bus hE, addEcho_bus hE, addReverb_bus hE, FxUnits.returns, List.append_assoc,
    List.cons_append, List.nil_append]

/-! ### The frame of a bus (R288, R289, R292) -/

theorem frameOp_out_exact {s : State α} {xs : List (Stereo α)} (bus : (mixBlock P s).1 = stereoSum xs) :
    (frameOp P s).out = s.out ++ pcmFrame s.master (stereoSum xs) := by
  rw [frameOp_out, bus]
  simp only [frameOf, masterGain, pcmFrame, natQ, mul_exact hE, div_exact hE]

/-! ### The channel loop of a SHARED block (R280, R286) -/

theorem mixShared_dry (mem : WaveMem) (chs : List (Channel α)) (xs : List (Stereo α)) (b : Buses α) :
    (mixShared P mem chs (stereoSum xs) b).1 = stereoSum (xs ++ chs.map (·.weightedMix P mem)) := by
  induction chs generalizing xs b with
  | nil => simp [mixShared]
  | cons ch rest ih =>
    simp only [mixShared, mix_output_exact hE, stereoSum_add hE, ih, List.map_cons, List.append_assoc, List.cons_append,
      List.nil_append]

end

/-- R286 in exact arithmetic: what a channel sends to the unit that its register `depth` feeds. -/
def Channel.send (P : Params α) (mem : WaveMem) (depth : Channel α → BitVec 7) (ch : Channel α) : Stereo α :=
  ⟨(ch.weightedMix P mem).l * ((depth ch).toNat : α) / 127, (ch.weightedMix P mem).r * ((depth ch).toNat : α) / 127⟩

theorem sendOf_exact (hE : ExactNum P.num) (mem : WaveMem) (depth : Channel α → BitVec 7) (ch : Channel α) :
    sendOf P.num (ch.weightedMix P mem) (depth ch) = ch.send P mem depth := by
  simp only [sendOf, Channel.send, natQ, mul_exact hE, div_exact hE]

theorem mixShared_buses (hE : ExactNum P.num) (mem : WaveMem) (chs : List (Channel α)) (dry : Stereo α)
    (cs es rs : List (Stereo α)) :
    (mixShared P mem chs dry ⟨stereoSum cs, stereoSum es, stereoSum rs⟩).2.1 =
      ⟨stereoSum (cs ++ chs.map (·.send P mem (·.sendChorus))), stereoSum (es ++ chs.map (·.send P mem (·.sendEcho))),
        stereoSum (rs ++ chs.map (·.send P mem (·.sendReverb)))⟩ := by
  induction chs generalizing dry cs es rs with
  | nil => simp [mixShared]
  | cons ch rest ih =>
    simp only [mixShared, mix_output_exact hE, Buses.addSends, sendOf_exact hE mem (·.sendChorus), sendOf_exact hE mem (·.sendEcho),
      sendOf_exact hE mem (·.sendReverb), stereoSum_add hE, ih, List.map_cons, List.append_assoc, List.cons_append,
      List.nil_append]

/-- The SHARED block after its channel loop and its one owner's units (R280). -/
theorem mixBlock_shared (hE : ExactNum P.num) (shared : P.topology = .shared) {s : State α} {x : FxUnits α} (units : s.fx = [x]) :
    (mixBlock P s).1 = stereoSum (s.channels.map (·.weightedMix P s.wmem) ++ x.returns P (s.sends P))
      ∧ (mixBlock P s).2.2 = [x.fedBy P (s.sends P)] := by
  have dry : (mixShared P s.wmem s.channels Stereo.zero Buses.zero).1 = stereoSum (s.channels.map (·.weightedMix P s.wmem)) :=
    mixShared_dry hE s.wmem s.channels [] Buses.zero
  have buses : (mixShared P s.wmem s.channels Stereo.zero Buses.zero).2.1 = s.sends P :=
    mixShared_buses hE s.wmem s.channels Stereo.zero [] [] []
  simp only [mixBlock, shared, units, runShared, dry, buses, run_bus hE, run_units, and_self]

/-- Settles O35: the sums of the channel loop, run through the one owner's units and emitted. -/
theorem frameOfTheSharedBlock : Obligations.FrameOfTheSharedBlock := by
  unfold Obligations.FrameOfTheSharedBlock
  refine ⟨fun α _ _ _ _ P s x hE shared units => ?_, exactNum_exact, rfl, exec_frame⟩
  obtain ⟨bus, fed⟩ := mixBlock_shared hE shared units
  exact ⟨(frameOp_fx P s).trans fed, frameOp_out_exact hE bus⟩

/-! ### The channel loop of a PRIVATE block (R291) -/

/-- R291: the buses of a channel's own units, before the mix is put in closed form. -/
def Channel.ownBuses (P : Params α) (mem : WaveMem) (ch : Channel α) : Buses α :=
  ⟨(ch.mix P mem).1, (ch.mix P mem).1, (ch.mix P mem).1⟩

theorem ownBuses_exact (hE : ExactNum P.num) (mem : WaveMem) (ch : Channel α) : ch.ownBuses P mem = ch.feed P mem := by
  simp only [Channel.ownBuses, Channel.feed, mix_output_exact hE]

theorem mixBlock_priv (priv : P.topology = .priv) (s : State α) :
    mixBlock P s = mixPrivate P s.wmem s.channels s.fx Stereo.zero := by
  simp only [mixBlock, priv]

/-- The units of channel `c` after the loop: fed by channel `c`, and left alone where there is no such channel. -/
theorem mixPrivate_getElem? (mem : WaveMem) (chs : List (Channel α)) (fx : List (FxUnits α)) (dry : Stereo α) (c : Nat) :
    (mixPrivate P mem chs fx dry).2.2[c]? = fx[c]?.map fun x => chs[c]?.elim x fun ch => x.fedBy P (ch.ownBuses P mem) := by
  induction chs generalizing fx dry c with
  | nil => simp [mixPrivate]
  | cons ch rest ih =>
    cases fx with
    | nil =>
      rw [mixPrivate, ih]
      rfl
    | cons x fx =>
      cases c with
      | zero =>
        simp only [mixPrivate, run_units]
        rfl
      | succ c => simp only [mixPrivate, List.getElem?_cons_succ, ih]

theorem mixPrivate_units (mem : WaveMem) {chs : List (Channel α)} {fx : List (FxUnits α)} (owned : fx.length = chs.length)
    (dry : Stereo α) :
    (mixPrivate P mem chs fx dry).2.2 = (chs.zip fx).map fun cx => cx.2.fedBy P (cx.1.ownBuses P mem) := by
  induction chs generalizing fx dry with
  | nil => exact List.length_eq_zero_iff.1 owned
  | cons ch rest ih =>
    cases fx with
    | nil => cases owned
    | cons x fx =>
      simp only [mixPrivate, run_units, ih (Nat.succ.inj owned), List.zip_cons_cons, List.map_cons]
      rfl

theorem mixPrivate_bus (hE : ExactNum P.num) (mem : WaveMem) {chs : List (Channel α)} {fx : List (FxUnits α)}
    (owned : fx.length = chs.length) (xs : List (Stereo α)) :
    (mixPrivate P mem chs fx (stereoSum xs)).1 = stereoSum (xs ++ (chs.zip fx).flatMap fun cx =>
      cx.1.weightedMix P mem :: cx.2.returns P (cx.1.feed P mem)) := by
  induction chs generalizing fx xs with
  | nil => simp [mixPrivate]
  | cons ch rest ih =>
    cases fx with
    | nil => cases owned
    | cons x fx =>
      have buses : (⟨ch.weightedMix P mem, ch.weightedMix P mem, ch.weightedMix P mem⟩ : Buses α) = ch.feed P mem := rfl
      simp only [mixPrivate, mix_output_exact hE, stereoSum_add hE, buses, run_bus hE, ih (Nat.succ.inj owned), List.zip_cons_cons,
        List.flatMap_cons, List.append_assoc, List.cons_append, List.nil_append]

/-- Settles O39: the loop over the channels, each with its own units. -/
theorem privateUnitsAreFedByTheirChannelAlone : Obligations.PrivateUnitsAreFedByTheirChannelAlone := by
  unfold Obligations.PrivateUnitsAreFedByTheirChannelAlone
  intro α _ _ _ _ P priv
  refine ⟨fun s s' c sameChannel sameUnits sameMemory => ?_, fun s hE owned => ⟨?units, ?frame⟩⟩
  · rw [frameOp_fx, frameOp_fx, mixBlock_priv priv, mixBlock_priv priv, mixPrivate_getElem?, mixPrivate_getElem?, sameChannel,
      sameUnits, sameMemory]
  case units =>
    rw [frameOp_fx, mixBlock_priv priv, mixPrivate_units s.wmem owned]
    simp only [ownBuses_exact hE]
  case frame =>
    refine frameOp_out_exact hE ?_
    rw [mixBlock_priv priv]
    exact mixPrivate_bus hE s.wmem owned []

end Sys2Proof.Machine
end

section
/-! O15, O16, O17, O19, O20, O22: the system and loading commands (46_system_commands.md). WDESC writes one field of one descriptor, and
WAVLOAD is a run of wave writes at consecutive addresses. -/

namespace Sys2Proof.Machine

open Laws.EncodesRow (append_and)

/-! ### The commands that write registers of the block (R310, R313 to R315) -/

/-- Settles O15: the command's operation is the identity. -/
theorem nopChangesNothing : Obligations.NopChangesNothing := by
  unfold Obligations.NopChangesNothing
  exact exec_eq_next_commandOp .nop

theorem lowBits_eq_ofNat (n : Nat) (data : Word) : lowBits n data = BitVec.ofNat n (data.toNat % 2 ^ n) := by
  apply BitVec.eq_of_toNat_eq
  rw [lowBits, BitVec.toNat_setWidth, BitVec.toNat_ofNat, Nat.mod_mod]

/-- Settles O16: the write is guarded by the index. -/
theorem wrgWritesMaster : Obligations.WrgWritesMaster := by
  unfold Obligations.WrgWritesMaster
  intro idx data s
  rw [exec_eq_next_commandOp, commandOp, writeGlobalOp, lowBits_eq_ofNat]
  rfl

/-- Settles O17: the command's operation is the write of WPTR. -/
theorem wavptrSetsThePointer : Obligations.WavptrSetsThePointer := by
  unfold Obligations.WavptrSetsThePointer
  exact fun addr s => exec_eq_next_commandOp (.wavptr addr) s

/-- Settles O22: the command's operation clears the two output meters and each channel's. -/
theorem mclrClearsTheMeters : Obligations.MclrClearsTheMeters := by
  unfold Obligations.MclrClearsTheMeters
  exact exec_eq_next_commandOp .mclr

/-! ### The bits a descriptor field keeps (R53, 20_memory.md R80) -/

/-- Masking a part of a word masks the two parts it is joined of. -/
theorem extract_and_append (data : Word) (low : Nat) {m n : Nat} (a : BitVec m) (b : BitVec n) :
    data.extractLsb' low (m + n) &&& (a ++ b) = (data.extractLsb' (low + n) m &&& a) ++ (data.extractLsb' low n &&& b) := by
  rw [← append_and, BitVec.extractLsb'_append_extractLsb'_eq_extractLsb' rfl]

/-- The word of field 0, ID, packed from the parts of `data`. -/
theorem idWord_parts (data : Word) : idWord (data.extractLsb' 8 14) (data.extractLsb' 0 7) = data &&& 0x003FFF7F :=
  Eq.symm <| calc data &&& 0x003FFF7F
    _ = data.extractLsb' 0 (10 + (14 + (1 + 7)))
          &&& ((0 : BitVec 10) ++ (BitVec.allOnes 14 ++ ((0 : BitVec 1) ++ BitVec.allOnes 7))) :=
      congrArg (· &&& _) BitVec.extractLsb'_eq_self.symm
    _ = idWord (data.extractLsb' 8 14) (data.extractLsb' 0 7) := by
      rw [extract_and_append, extract_and_append, extract_and_append]
      simp only [BitVec.ofNat_eq_ofNat, BitVec.and_zero, BitVec.and_allOnes]
      rfl

/-- The word of field 1, RANGE, packed from the parts of `data`. -/
theorem rangeWord_parts (data : Word) :
    rangeWord (data.extractLsb' 0 7) (data.extractLsb' 8 7) (data.extractLsb' 16 7) = data &&& 0x007F7F7F :=
  Eq.symm <| calc data &&& 0x007F7F7F
    _ = data.extractLsb' 0 (9 + (7 + (1 + (7 + (1 + 7)))))
          &&& ((0 : BitVec 9) ++ (BitVec.allOnes 7
            ++ ((0 : BitVec 1) ++ (BitVec.allOnes 7 ++ ((0 : BitVec 1) ++ BitVec.allOnes 7))))) :=
      congrArg (· &&& _) BitVec.extractLsb'_eq_self.symm
    _ = rangeWord (data.extractLsb' 0 7) (data.extractLsb' 8 7) (data.extractLsb' 16 7) := by
      rw [extract_and_append, extract_and_append, extract_and_append, extract_and_append, extract_and_append]
      simp only [BitVec.ofNat_eq_ofNat, BitVec.and_zero, BitVec.and_allOnes]
      rfl

/-- The word of field 2, FLAGS, packed from the parts of `data`. -/
theorem flagsWord_parts (data : Word) :
    (0 : BitVec 29) ++ (data.extractLsb' 2 1 ++ (data.extractLsb' 1 1 ++ data.extractLsb' 0 1)) = data &&& 0x00000007 :=
  Eq.symm <| calc data &&& 0x00000007
    _ = data.extractLsb' 0 (29 + (1 + (1 + 1)))
          &&& ((0 : BitVec 29) ++ (BitVec.allOnes 1 ++ (BitVec.allOnes 1 ++ BitVec.allOnes 1))) :=
      congrArg (· &&& _) BitVec.extractLsb'_eq_self.symm
    _ = (0 : BitVec 29) ++ (data.extractLsb' 2 1 ++ (data.extractLsb' 1 1 ++ data.extractLsb' 0 1)) := by
      rw [extract_and_append, extract_and_append, extract_and_append]
      simp only [BitVec.ofNat_eq_ofNat, BitVec.and_zero, BitVec.and_allOnes]

/-! ### WDESC (R317) -/

section
variable {x x' : Descriptor} {n : Nat} {data : Word}

theorem writeField_of_le (x : Descriptor) (data : Word) (h : n ≤ 7) : ∃ x', x.writeField n data = some x' := by
  interval_cases n <;> exact ⟨_, rfl⟩

/-- R80, R317: the field that is written reads back the bits it keeps. -/
theorem readField_writeField_self (e : x.writeField n data = some x') : x'.readField n = data &&& descriptorFieldMasks.getD n 0 := by
  unfold Descriptor.writeField at e
  split at e <;> cases e
  · exact idWord_parts data
  · exact rangeWord_parts data
  · exact flagsWord_parts data
  all_goals exact (BitVec.and_allOnes (x := data)).symm

/-- R317: every other field reads as before. -/
theorem readField_writeField_ne {g : Nat} (e : x.writeField n data = some x') (h : g ≠ n) : x'.readField g = x.readField g := by
  unfold Descriptor.writeField at e
  split at e <;> cases e
  all_goals
    unfold Descriptor.readField
    split <;> trivial

end

/-- WDESC of a descriptor and a field that exist. -/
theorem exec_wdesc_of_field {s : State} {d field : BitVec 8} {data : Word} {x x' : Descriptor} (there : s.wd[d.toNat]? = some x)
    (e : x.writeField field.toNat data = some x') : exec (.wdesc d field data) s = .next { s with wd := s.wd.set d.toNat x' } := by
  have inTable : d.toNat < Config.params.ndesc := d.isLt
  rw [exec_eq_next_commandOp, commandOp, writeDescriptorOp, if_pos inTable, State.onDescriptor, there]
  dsimp only
  rw [e, Option.getD_some]

/-- Settles O20: the no-op cases are the index checks; the rest is what `writeField` writes and `readField` reads. -/
theorem wdescWritesOneField : Obligations.WdescWritesOneField := by
  unfold Obligations.WdescWritesOneField
  refine ⟨?noop, ?noField, fun d field data s x there le => ?written⟩
  case noop =>
    rintro α _ _ _ _ P d field data s (noDescriptor | noField)
    · exact writeDescriptorOp_of_no_descriptor field data s noDescriptor
    · exact writeDescriptorOp_of_no_field d data s noField
  case noField =>
    intro d field data s noField
    rw [exec_eq_next_commandOp, commandOp, writeDescriptorOp_of_no_field d data s noField]
  case written =>
    obtain ⟨x', e⟩ := writeField_of_le x data le
    refine ⟨x', exec_wdesc_of_field there e, ?_, ?_, ?_, ?_, ?_, ?_, ?_, ?_, readField_writeField_self e,
      fun g other => readField_writeField_ne e other⟩
    all_goals
      rintro rfl
      exact (Option.some.inj e).symm

/-! ### WAVLOAD (R316, 20_memory.md R73, 30_encoding.md R121) -/

/-- R85: a run does its first command, then the others. -/
theorem runCommands_cons (i : Instr) (rest : List Instr) (s : State) :
    runCommands (i :: rest) s = runCommands rest (commandOp Config.params i s) := by
  rw [runCommands, exec_eq_next_commandOp]

/-- Wave memory with frames written from address `a` on. -/
def waveFill (m : WaveMem) (a : Nat) : List (BitVec 16 × BitVec 16) → WaveMem
  | [] => m
  | f :: fs => waveFill (waveWrite Config.params m a ⟨f.1, f.2⟩) (a + 1) fs

/-- R316: a run of WAVDAT fills the memory from WPTR on, and WPTR ends behind the last frame. -/
theorem runCommands_wavdat (frames : List (BitVec 16 × BitVec 16)) {s : State} {a : Nat} (pointer : s.wptr = BitVec.ofNat 32 a)
    (fits : a + frames.length ≤ 2 ^ 32) :
    runCommands (frames.map fun f => .wavdat f.1 f.2) s
      = .next { s with wmem := waveFill s.wmem a frames, wptr := BitVec.ofNat 32 (a + frames.length) } := by
  induction frames generalizing s a with
  | nil =>
    rw [List.length_nil, add_zero, ← pointer]
    rfl
  | cons f fs ih =>
    rw [List.length_cons] at fits ⊢
    have here : s.wptr.toNat = a := by rw [pointer, toNat_ofNat_word (by omega)]
    have next : (waveDataOp Config.params f.1 f.2 s).wptr = BitVec.ofNat 32 (a + 1) := by
      rw [waveDataOp_wptr, pointer, BitVec.ofNat_add]
      rfl
    rw [List.map_cons, runCommands_cons, commandOp, ih next (by omega), waveDataOp_wmem, here, Nat.add_right_comm]
    rfl

theorem waveRead_waveFill_outside {b : Nat} (frames : List (BitVec 16 × BitVec 16)) (m : WaveMem) {a : Nat}
    (h : b < a ∨ a + frames.length ≤ b) : waveRead Config.params (waveFill m a frames) b = waveRead Config.params m b := by
  induction frames generalizing m a with
  | nil => rfl
  | cons f fs ih =>
    rw [List.length_cons] at h
    rw [waveFill, ih _ (by omega), waveRead_waveWrite_ne Config.params m a b _ (by omega)]

theorem waveRead_waveFill_inside {frames : List (BitVec 16 × BitVec 16)} {k : Nat} {f : BitVec 16 × BitVec 16}
    (m : WaveMem) {a : Nat} (h : frames[k]? = some f) (inside : a + k < Config.params.wmemFrames) :
    waveRead Config.params (waveFill m a frames) (a + k) = ⟨f.1, f.2⟩ := by
  induction frames generalizing m a k with
  | nil => cases h
  | cons g fs ih =>
    cases k with
    | zero =>
      cases h
      rw [add_zero] at inside ⊢
      rw [waveFill, waveRead_waveFill_outside fs _ (.inl a.lt_succ_self), waveRead_waveWrite_self _ _ _ _ inside]
    | succ k =>
      rw [← Nat.succ_add_eq_add_succ] at inside ⊢
      exact ih _ h inside

/-- R73: nothing is written beyond the memory. -/
theorem waveFill_beyond (frames : List (BitVec 16 × BitVec 16)) (m : WaveMem) {a : Nat} (h : Config.params.wmemFrames ≤ a) :
    waveFill m a frames = m := by
  induction frames generalizing a with
  | nil => rfl
  | cons f fs ih => rw [waveFill, waveWrite_outside _ _ _ h, ih (h.trans a.le_succ)]

/-- Settles O19: after WAVPTR the run of WAVDAT fills the memory from the pointer on. -/
theorem wavloadFillsConsecutiveFrames : Obligations.WavloadFillsConsecutiveFrames := by
  unfold Obligations.WavloadFillsConsecutiveFrames
  intro addr frames s fits
  have pointer : (wavePointerOp addr s).wptr = BitVec.ofNat 32 addr.toNat := by
    rw [wavePointerOp_wptr, BitVec.ofNat_toNat, BitVec.setWidth_eq]
  refine ⟨waveFill s.wmem addr.toNat frames, ?run, fun k f there inside => waveRead_waveFill_inside _ there inside,
    waveFill_beyond frames s.wmem, fun a => waveRead_waveFill_outside frames s.wmem⟩
  case run =>
    rw [Pseudo.expand, runCommands_cons, commandOp, runCommands_wavdat frames pointer fits, BitVec.ofNat_add, ← pointer]
    rfl

end Sys2Proof.Machine
end

section
/-! O24: the frames after REWIND (46_system_commands.md R312, 70_reset_and_hazards.md R383). An effect unit whose delay lines and comb
stores are empty answers silence to silence and stays so; channels without voices feed it nothing else. -/

namespace Sys2Proof.Machine

set_option linter.unusedSectionVars false

variable {α : Type} [Field α] [LinearOrder α] [IsStrictOrderedRing α] [FloorRing α] {P : Params α}

/-! ### Effect units that hold no signal (10_state.md R59 to R61) -/

/-- A comb that holds no signal. -/
def Comb.Silent (c : Comb α) : Prop := c.buf = [] ∧ c.store = 0

/-- An all-pass that holds no signal. -/
def AllPass.Silent (a : AllPass α) : Prop := a.buf = []

/-- A chorus that holds no signal. -/
def Chorus.Silent (x : Chorus α) : Prop := x.hist = []

/-- An echo that holds no signal. -/
def Echo.Silent (x : Echo α) : Prop := x.histL = [] ∧ x.histR = []

/-- A reverb that holds no signal. -/
structure Reverb.Silent (v : Reverb α) : Prop where
  pre : v.pre = []
  combL : ∀ c ∈ v.combL, c.Silent
  combR : ∀ c ∈ v.combR, c.Silent
  apL : ∀ a ∈ v.apL, a.Silent
  apR : ∀ a ∈ v.apR, a.Silent

/-- An owner's units that hold no signal; their depths and coefficients are anything. -/
structure FxUnits.Silent (x : FxUnits α) : Prop where
  chorus : x.chorus.Silent
  echo : x.echo.Silent
  reverb : x.reverb.Silent

theorem reverb_clear_silent (v : Reverb α) : v.clear.Silent where
  pre := rfl
  combL := List.forall_mem_replicate.2 (.inr ⟨rfl, rfl⟩)
  combR := List.forall_mem_replicate.2 (.inr ⟨rfl, rfl⟩)
  apL := List.forall_mem_replicate.2 (.inr rfl)
  apR := List.forall_mem_replicate.2 (.inr rfl)

theorem clear_silent (x : FxUnits α) : x.clear.Silent := ⟨rfl, ⟨rfl, rfl⟩, reverb_clear_silent x.reverb⟩

/-! ### Silence in, silence out (42_chorus_echo.md, 43_reverb.md) -/

theorem predelay_silent {v : Reverb α} (h : v.Silent) : (v.predelay P 0).1 = 0 ∧ (v.predelay P 0).2.Silent := by
  unfold Reverb.predelay
  split
  · exact ⟨rfl, h⟩
  · simp only [h.pre, lineRead_nil, lineWrite_nil_zero]
    exact ⟨trivial, { h with pre := rfl }⟩

section
variable (hE : ExactNum P.num)
include hE

theorem stereo_zero_add_zero : (Stereo.zero : Stereo α).add P.num Stereo.zero = Stereo.zero := by
  simp only [Stereo.add, Stereo.zero, add_exact hE, add_zero]

theorem wetOrBoth_silent {wet : Stereo α} (h : wet = Stereo.zero) (wetOnly : Bool) :
    wetOrBoth P.num wetOnly Stereo.zero wet = Stereo.zero := by
  rw [wetOrBoth, h, stereo_zero_add_zero hE, ite_self]

theorem chorus_wet_silent {x : Chorus α} (h : x.Silent) :
    (x.wet P Stereo.zero).1 = Stereo.zero ∧ (x.wet P Stereo.zero).2.Silent := by
  have empty : x.hist = [] := h
  have taps (ts : List (Tap α)) : ts.foldl (fun acc t => acc.add P.num (tapOutput P x t)) Stereo.zero = Stereo.zero := by
    induction ts with
    | nil => rfl
    | cons t ts ih =>
      have tap : tapOutput P x t = Stereo.zero := by
        simp only [tapOutput, empty, lineRead_nil, mul_exact hE, zero_mul, Stereo.zero]
      rw [List.foldl_cons, tap, stereo_zero_add_zero hE, ih]
  refine ⟨taps P.chTaps, ?_⟩
  simp only [Chorus.wet, Chorus.Silent, empty, Stereo.zero, add_exact hE, div_exact hE, add_zero, zero_div, lineWrite_nil_zero]

theorem echo_wet_silent {x : Echo α} (h : x.Silent) :
    (x.wet P Stereo.zero).1 = Stereo.zero ∧ (x.wet P Stereo.zero).2.Silent := by
  obtain ⟨left, right⟩ := h
  have taps (k : Nat) (gs : List α) : echoTaps P x k gs Stereo.zero = Stereo.zero := by
    induction gs generalizing k with
    | nil => rfl
    | cons g gs ih =>
      have tap : echoTap P x k g = Stereo.zero := by
        simp only [echoTap, left, right, lineRead_nil, mul_exact hE, zero_mul, Stereo.zero]
      rw [echoTaps, tap, stereo_zero_add_zero hE, ih]
  refine ⟨taps 0 P.echoGain, ?_⟩
  simp only [Echo.wet, Echo.Silent, left, right, Stereo.zero, lineWrite_nil_zero, and_self]

theorem comb_step_silent (len : Nat) (fb damp : α) {c : Comb α} (h : c.Silent) :
    (c.step P.num len 0 fb damp).1 = 0 ∧ (c.step P.num len 0 fb damp).2.Silent := by
  obtain ⟨buf, store⟩ := h
  simp only [Comb.step, Comb.Silent, buf, store, lineRead_nil, add_exact hE, mul_exact hE, zero_mul, add_zero, lineWrite_nil_zero,
    and_self]

theorem allPass_step_silent (len : Nat) {a : AllPass α} (h : a.Silent) :
    (a.step P len 0).1 = 0 ∧ (a.step P len 0).2.Silent := by
  have empty : a.buf = [] := h
  simp only [AllPass.step, AllPass.Silent, empty, lineRead_nil, add_exact hE, sub_exact hE, mul_exact hE, zero_mul, add_zero,
    sub_zero, lineWrite_nil_zero, and_self]

theorem combBank_silent (fb damp : α) (lens : List Nat) {cs : List (Comb α)} (h : ∀ c ∈ cs, c.Silent) :
    (combBank P.num 0 fb damp lens cs 0).1 = 0 ∧ ∀ c ∈ (combBank P.num 0 fb damp lens cs 0).2, c.Silent := by
  induction lens generalizing cs with
  | nil => exact ⟨rfl, h⟩
  | cons len lens ih =>
    cases cs with
    | nil => exact ⟨rfl, h⟩
    | cons c cs =>
      obtain ⟨first, others⟩ := List.forall_mem_cons.1 h
      obtain ⟨out, kept⟩ := comb_step_silent hE len fb damp first
      obtain ⟨sum, rest⟩ := ih others
      simp only [combBank, out, add_exact hE, add_zero]
      exact ⟨sum, List.forall_mem_cons.2 ⟨kept, rest⟩⟩

theorem allPassChain_silent (lens : List Nat) {as : List (AllPass α)} (h : ∀ a ∈ as, a.Silent) :
    (allPassChain P lens as 0).1 = 0 ∧ ∀ a ∈ (allPassChain P lens as 0).2, a.Silent := by
  induction lens generalizing as with
  | nil => exact ⟨rfl, h⟩
  | cons len lens ih =>
    cases as with
    | nil => exact ⟨rfl, h⟩
    | cons a as =>
      obtain ⟨first, others⟩ := List.forall_mem_cons.1 h
      obtain ⟨out, kept⟩ := allPass_step_silent hE len first
      obtain ⟨last, rest⟩ := ih others
      simp only [allPassChain, out]
      exact ⟨last, List.forall_mem_cons.2 ⟨kept, rest⟩⟩

theorem reverb_wet_silent {v : Reverb α} (h : v.Silent) :
    (v.wet P Stereo.zero).1 = Stereo.zero ∧ (v.wet P Stereo.zero).2.Silent := by
  obtain ⟨delayed, kept⟩ := predelay_silent (P := P) h
  rcases e : v.predelay P 0 with ⟨x, v1⟩
  rw [e] at delayed kept
  dsimp only at delayed kept
  subst delayed
  obtain ⟨combsL, combL⟩ := combBank_silent hE v1.fb v1.damp P.combLen kept.combL
  obtain ⟨combsR, combR⟩ := combBank_silent hE v1.fb v1.damp P.combLenR kept.combR
  obtain ⟨left, apL⟩ := allPassChain_silent hE P.apLen kept.apL
  obtain ⟨right, apR⟩ := allPassChain_silent hE P.apLenR kept.apR
  simp only [Reverb.wet, Stereo.zero, add_exact hE, mul_exact hE, add_zero, zero_mul, e, combsL, combsR, left, right]
  exact ⟨trivial, kept.pre, combL, combR, apL, apR⟩

theorem chorus_process_silent {x : Chorus α} (h : x.Silent) :
    (x.process P Stereo.zero).1 = Stereo.zero ∧ (x.process P Stereo.zero).2.Silent := by
  obtain ⟨wet, kept⟩ := chorus_wet_silent hE h
  unfold Chorus.process
  split
  · exact ⟨rfl, h⟩
  · exact ⟨wetOrBoth_silent hE wet _, kept⟩

theorem echo_process_silent {x : Echo α} (h : x.Silent) :
    (x.process P Stereo.zero).1 = Stereo.zero ∧ (x.process P Stereo.zero).2.Silent := by
  obtain ⟨wet, kept⟩ := echo_wet_silent hE h
  unfold Echo.process
  split
  · exact ⟨rfl, h⟩
  · exact ⟨wetOrBoth_silent hE wet _, kept⟩

theorem reverb_process_silent {v : Reverb α} (h : v.Silent) :
    (v.process P Stereo.zero).1 = Stereo.zero ∧ (v.process P Stereo.zero).2.Silent := by
  obtain ⟨wet, kept⟩ := reverb_wet_silent hE h
  unfold Reverb.process
  split
  · exact ⟨rfl, h⟩
  · exact ⟨wetOrBoth_silent hE wet _, kept⟩

theorem fedBy_silent {x : FxUnits α} (h : x.Silent) : (x.fedBy P Buses.zero).Silent where
  chorus := (chorus_process_silent hE h.chorus).2
  echo := by
    unfold FxUnits.fedBy
    dsimp only
    split
    · exact (echo_process_silent hE h.echo).2
    · exact h.echo
  reverb := (reverb_process_silent hE h.reverb).2

end

/-! ### A silent frame (45_frame_mixer.md R280 to R293) -/

theorem stereoSum_eq_zero {xs : List (Stereo α)} (h : ∀ x ∈ xs, x = Stereo.zero) : stereoSum xs = Stereo.zero := by
  rw [List.eq_replicate_of_mem h]
  simp [stereoSum, Stereo.zero]

theorem unitReturn_zero (present : Bool) (depth : BitVec 7) : unitReturn present depth (Stereo.zero : Stereo α) = Stereo.zero :=
  ite_self _

theorem returns_silent (hE : ExactNum P.num) {x : FxUnits α} (h : x.Silent) : stereoSum (x.returns P Buses.zero) = Stereo.zero := by
  refine stereoSum_eq_zero ?_
  simp only [FxUnits.returns, Buses.zero, (chorus_process_silent hE h.chorus).1, (echo_process_silent hE h.echo).1,
    (reverb_process_silent hE h.reverb).1, unitReturn_zero, List.forall_mem_cons, List.not_mem_nil, false_implies, implies_true,
    and_self]

theorem weightedMix_of_no_voices (mem : WaveMem) {ch : Channel α} (h : ch.voices = []) : ch.weightedMix P mem = Stereo.zero := by
  simp [Channel.weightedMix, Channel.outputs, h, Stereo.zero]

theorem send_of_no_voices (mem : WaveMem) (depth : Channel α → BitVec 7) {ch : Channel α} (h : ch.voices = []) :
    ch.send P mem depth = Stereo.zero := by
  simp [Channel.send, weightedMix_of_no_voices mem h, Stereo.zero]

theorem sends_of_no_voices {s : State α} (h : ∀ ch ∈ s.channels, ch.voices = []) : s.sends P = Buses.zero := by
  have bus (depth : Channel α → BitVec 7) : s.sendBus P depth = Stereo.zero :=
    stereoSum_eq_zero (List.forall_mem_map.2 fun ch there => send_of_no_voices s.wmem depth (h ch there))
  simp only [State.sends, bus, Buses.zero]

/-- R280: with no voice and no signal in its units a SHARED block mixes silence, and its units stay without a signal. -/
theorem mixBlock_silent (hE : ExactNum P.num) (shared : P.topology = .shared) {s : State α}
    (channels : ∀ ch ∈ s.channels, ch.voices = []) (units : ∀ x ∈ s.fx, x.Silent) :
    (mixBlock P s).1 = Stereo.zero ∧ ∀ x ∈ (mixBlock P s).2.2, x.Silent := by
  have dry : (mixShared P s.wmem s.channels Stereo.zero Buses.zero).1 = stereoSum [] :=
    (mixShared_dry hE s.wmem s.channels [] Buses.zero).trans
      (stereoSum_eq_zero (List.forall_mem_map.2 fun ch there => weightedMix_of_no_voices s.wmem (channels ch there)))
  have buses : (mixShared P s.wmem s.channels Stereo.zero Buses.zero).2.1 = Buses.zero :=
    (mixShared_buses hE s.wmem s.channels Stereo.zero [] [] []).trans (sends_of_no_voices channels)
  simp only [mixBlock, shared, dry, buses]
  cases fx : s.fx with
  | nil => exact ⟨rfl, fun x there => nomatch there⟩
  | cons x others =>
    rw [fx] at units
    obtain ⟨first, rest⟩ := List.forall_mem_cons.1 units
    simp only [runShared, run_bus hE, run_units]
    exact ⟨returns_silent hE first, List.forall_mem_cons.2 ⟨fedBy_silent hE first, rest⟩⟩

theorem toPcm_zero : toPcm (0 : α) = 0 := by simpa using toPcm_intCast (α := α) (n := 0) (by decide) (by decide)

theorem frameOf_zero (hE : ExactNum P.num) (master : BitVec 7) : frameOf P master Stereo.zero = (0, 0) := by
  simp only [frameOf, masterGain, Stereo.zero, mul_exact hE, div_exact hE, zero_mul, zero_div, toPcm_zero]

/-- A channel at its reset values is left at them by a frame. -/
theorem mix_reset (hE : ExactNum P.num) (mem : WaveMem) : ((Channel.reset : Channel α).mix P mem).2 = Channel.reset := by
  have peak : chanPeak (Stereo.zero : Stereo α) = 0 := by simp [chanPeak, Stereo.zero, absQ]
  rw [mix_channel, mix_output_exact hE, weightedMix_of_no_voices mem rfl, peak]
  rfl

/-! ### The frames after REWIND -/

/-- What REWIND on `s` and `n` frames leave. -/
structure SilentPass (s : State α) (n : Nat) (t : State α) : Prop where
  channels : t.channels = List.replicate s.channels.length Channel.reset
  units : ∀ x ∈ t.fx, x.Silent
  out : t.out = s.out ++ List.replicate (4 * n) 0
  frameCnt : t.frameCnt = BitVec.ofNat 32 n
  silenceCnt : t.silenceCnt = BitVec.ofNat 32 (min n (2 ^ 32 - 1))
  outPeakL : t.outPeakL = 0
  outPeakR : t.outPeakR = 0

/-- R312: REWIND empties the channels and clears the units. -/
theorem silentPass_rewind (s : State α) : SilentPass s 0 (rewindOp s) where
  channels := by rw [rewindOp_channels, List.map_const']
  units := List.forall_mem_map.2 fun x _ => clear_silent x
  out := by rw [rewindOp_out, mul_zero, List.replicate_zero, List.append_nil]
  frameCnt := rfl
  silenceCnt := rfl
  outPeakL := rfl
  outPeakR := rfl

theorem satSucc_ofNat_min (n : Nat) :
    satSucc (BitVec.ofNat 32 (min n (2 ^ 32 - 1))) = BitVec.ofNat 32 (min (n + 1) (2 ^ 32 - 1)) := by
  apply BitVec.eq_of_toNat_eq
  rw [satSucc_toNat, toNat_ofNat_word (by omega), toNat_ofNat_word (by omega)]
  omega

/-- R293: one more frame emits one more silence. -/
theorem silentPass_frame (hE : ExactNum P.num) (shared : P.topology = .shared) {s t : State α} {n : Nat} (h : SilentPass s n t) :
    SilentPass s (n + 1) (frameOp P t) := by
  have noVoices : ∀ ch ∈ t.channels, ch.voices = [] := by
    rw [h.channels]
    exact List.forall_mem_replicate.2 (.inr rfl)
  obtain ⟨bus, units⟩ := mixBlock_silent hE shared noVoices h.units
  have samples : t.samples P = (0, 0) := by rw [State.samples, bus, frameOf_zero hE]
  refine ⟨?channels, units, ?out, ?frameCnt, ?silenceCnt, ?peakL, ?peakR⟩
  case channels => rw [frameOp_channels, mixBlock_channels, h.channels, List.map_replicate, mix_reset hE]
  case out =>
    have bytes : frameBytes 0 0 = List.replicate 4 0 := by decide
    rw [frameOp_emits, samples, emitFrame_out, emit_eq, bytes, h.out, List.append_assoc, List.replicate_append_replicate, mul_add_one]
  case frameCnt =>
    rw [frameOp_frameCnt, h.frameCnt, wrapSucc, BitVec.ofNat_add]
    rfl
  case silenceCnt =>
    rw [frameOp_emits, samples, emitFrame_silenceCnt, if_pos ⟨rfl, rfl⟩, h.silenceCnt, satSucc_ofNat_min]
  case peakL =>
    rw [frameOp_emits, samples, emitFrame_outPeakL, h.outPeakL]
    rfl
  case peakR =>
    rw [frameOp_emits, samples, emitFrame_outPeakR, h.outPeakR]
    rfl

/-- A run of frames carries the pass on. -/
theorem runCommands_frames {s t : State} {k : Nat} (h : SilentPass s k t) (n : Nat) :
    ∃ u, runCommands (List.replicate n .frame) t = .next u ∧ SilentPass s (k + n) u := by
  induction n generalizing t k with
  | zero => exact ⟨t, rfl, h⟩
  | succ n ih =>
    obtain ⟨u, run, pass⟩ := ih (silentPass_frame (P := Config.params) exactNum_exact params_topology h)
    refine ⟨u, ?_, Nat.add_right_comm k 1 n ▸ pass⟩
    rw [List.replicate_succ, runCommands_cons]
    exact run

/-- Settles O24: REWIND begins a silent pass, and every frame carries it on. -/
theorem rewindThenFramesAreSilent : Obligations.RewindThenFramesAreSilent := by
  unfold Obligations.RewindThenFramesAreSilent
  intro s n
  obtain ⟨t, run, pass⟩ := runCommands_frames (silentPass_rewind s) n
  rw [zero_add] at pass
  refine ⟨t, ?_, pass.out, pass.frameCnt, pass.silenceCnt, pass.outPeakL, pass.outPeakR, pass.channels⟩
  rw [runCommands_cons]
  exact run

end Sys2Proof.Machine
end

section
/-! O8, O23: every step and command has a next state (60_exceptions.md R340), and REWIND is reset with the loaded, configured and recorded
parts put back (46_system_commands.md R312, 70_reset_and_hazards.md R382). -/

namespace Sys2Proof.Machine

/-! ### Totality (R340) -/

/-- R340: the block runs a command, passes over a reserved word or waits, and each of the three has a next state. -/
theorem step_completes (s : State) : ∃ t, step s = .next t := by
  rcases step_cases s with ⟨i, rest, -, e⟩ | ⟨r, rest, -, e⟩ | ⟨-, e⟩ <;> rw [e]
  · exact ⟨_, exec_eq_next_commandOp i (s.withStream rest)⟩
  · exact ⟨_, rfl⟩
  · exact ⟨_, rfl⟩

/-- Settles O8: a step by what it can do, a command by the default build's operation. -/
theorem everyCommandCompletes : Obligations.EveryCommandCompletes := by
  unfold Obligations.EveryCommandCompletes
  exact ⟨step_completes, exec_eq_next_commandOp⟩

/-! ### REWIND against reset (R312, R382) -/

section

set_option linter.unusedSectionVars false

variable {α : Type} [Field α] [LinearOrder α] [FloorRing α]

/-- R382: REWIND is the reset of any build `P` with WPTR, descriptors, wave memory, output and commands to come put back; the channels keep
their number, the effect units their configuration. -/
theorem rewindOp_eq_reset_with (P : Params α) (s : State α) :
    rewindOp s = { State.resetOf P with
      channels := List.replicate s.channels.length Channel.reset
      wptr := s.wptr, wd := s.wd, wmem := s.wmem, out := s.out, stream := s.stream
      fx := s.fx.map FxUnits.clear } := by
  rw [rewindOp, List.map_const']
  rfl

/-- R312: a second REWIND finds the channels at reset and the units cleared. -/
theorem rewindOp_rewindOp (s : State α) : rewindOp (rewindOp s) = rewindOp s := by
  have channels : (rewindOp s).channels.map (fun _ => Channel.reset) = (rewindOp s).channels := List.map_map
  have units : (rewindOp s).fx.map FxUnits.clear = (rewindOp s).fx := List.map_map
  rw [rewindOp.eq_def (rewindOp s), channels, units]
  rfl

end

/-- Settles O23: the default build's reset, REWIND's idempotence, and the sixteen channels of that build. -/
theorem rewindIsResetWithPartsPutBack : Obligations.RewindIsResetWithPartsPutBack := by
  unfold Obligations.RewindIsResetWithPartsPutBack
  intro s
  refine ⟨rewindOp s, exec_eq_next_commandOp .rewind s, ?again, rewindOp_eq_reset_with Config.params s, fun sixteen => ?channels⟩
  case again => rw [exec_eq_next_commandOp, commandOp, rewindOp_rewindOp]
  case channels =>
    rw [rewindOp_channels, List.map_const', sixteen]
    rfl

end Sys2Proof.Machine
end
